-- ==== Sys2Proof/Word.lean ====
section
/-! DEFINITION. The word types of the block: bytes, command and response words, ruler entries, pixels. -/

namespace Sys2Proof

/-- One byte of the packet buffer, and one colour channel (00_scope.md R1). -/
abbrev Byte := BitVec 8

/-- One command word (30_encoding.md R80). -/
abbrev CmdWord := BitVec 64

/-- One response word: CODE in bits 63:56, DATA in bits 55:0 (30_encoding.md R84). -/
abbrev RspWord := BitVec 64

/-- One error ruler: its entries in index order, 24 bits each (10_state.md R31). The list is as long as
the ruler; an empty list is a ruler that holds no value (10_state.md R23). -/
abbrev Ruler := List (BitVec 24)

/-- One pixel: three 8-bit channels and no padding byte (10_state.md R29). -/
structure Pixel where
  r : Byte
  g : Byte
  b : Byte
deriving DecidableEq, Repr, Inhabited

/-- The canvas as its rows, row 0 first, each row as its pixels, column 0 first: "`H` rows of `W` pixels"
(10_state.md R29). An empty list is a canvas that holds no value (10_state.md R23). -/
abbrev Canvas := List (List Pixel)

end Sys2Proof
end

