-- ==== Sys2Proof/Syntax.lean ====
section
/-! DEFINITION. The commands of the block (one constructor per row of the opcode table), their formats, the
reasons a word is no command, and the assembly terms. -/

namespace Sys2Proof

/-- A command with its operands, each operand as wide as its field (30_encoding.md R81, R82). One
constructor per row of the opcode table, in the table's order (30_encoding.md R85). -/
inductive Instr where
  /-- `NOP` (R111) -/
  | nop
  /-- `OPEN w, h` (R112) -/
  | openCtx (w h : BitVec 16)
  /-- `CLOSE` (R113) -/
  | closeCtx
  /-- `SETRAD r` (R114) -/
  | setrad (r : BitVec 8)
  /-- `SETPOS v` (R115) -/
  | setpos (v : BitVec 32)
  /-- `SETSIZE v` (R116) -/
  | setsize (v : BitVec 32)
  /-- `CLRNP` (R117) -/
  | clrnp
  /-- `CLRST` (R118) -/
  | clrst
  /-- `WRX i, v` (R119) -/
  | wrx (i : BitVec 16) (v : BitVec 24)
  /-- `WRY j, v` (R120) -/
  | wry (j : BitVec 16) (v : BitVec 24)
  /-- `RDX i` (R121) -/
  | rdx (i : BitVec 16)
  /-- `RDY j` (R122) -/
  | rdy (j : BitVec 16)
  /-- `RDPIX x, y` (R123) -/
  | rdpix (x y : BitVec 16)
  /-- `RDREG n` (R124) -/
  | rdreg (n : BitVec 8)
  /-- `SELECT` (41_engine.md R154) -/
  | select
  /-- `STEPD` (41_engine.md R176) -/
  | stepd
  /-- `STEPE` (41_engine.md R177) -/
  | stepe
deriving DecidableEq, Repr

/-- The 17 assigned opcodes (30_encoding.md R85). -/
inductive Op where
  | nop | openCtx | closeCtx | setrad | setpos | setsize | clrnp | clrst | wrx | wry | rdx | rdy | rdpix
  | rdreg | select | stepd | stepe
deriving DecidableEq, Repr

/-- The six command formats (30_encoding.md R81). -/
inductive Format where
  | n | d | b | v | r | i
deriving DecidableEq, Repr

/-- Why a word is no command (30_encoding.md R83, R86), and why bytes are no command word (R80, R93). -/
inductive Illegal where
  /-- `OP` is 0x11 to 0xFF (R86). -/
  | reservedOpcode (op : BitVec 8)
  /-- `OP` is assigned and a reserved bit of its format is set (R83). -/
  | reservedBits (op : Op)
  /-- The bytes are not the eight bytes of one command word (R80, R93). -/
  | wrongLength (bytes : Nat)
deriving DecidableEq, Repr

/-- The registers `RDREG` reads, in the order of their numbers (10_state.md R22). -/
inductive RegName where
  | status | opened | w | h | radius | pos | size | numpix | maxW | maxH
deriving DecidableEq, Repr

/-- One line of assembly: a mnemonic with the numbers written on the line, of any size (30_encoding.md R90),
and the two pseudo-instructions (R91). `rdregName` is `RDREG` with a register's name for its number. -/
inductive Asm where
  | nop
  | openCtx (w h : Nat)
  | closeCtx
  | setrad (r : Nat)
  | setpos (v : Nat)
  | setsize (v : Nat)
  | clrnp
  | clrst
  | wrx (i v : Nat)
  | wry (j v : Nat)
  | rdx (i : Nat)
  | rdy (j : Nat)
  | rdpix (x y : Nat)
  | rdreg (n : Nat)
  | rdregName (r : RegName)
  | select
  | stepd
  | stepe
  | loadx (vs : List Nat)
  | loady (vs : List Nat)
deriving DecidableEq, Repr

end Sys2Proof
end

