-- ==== Sys2Proof/WellFormed.lean ====
section
/-! DEFINITION. Which assembly terms name a command: every operand fits its field (30_encoding.md R90). An
`Instr` needs no such check: each of its operands has the type of its field. -/

namespace Sys2Proof

/-- `v` fits an unsigned field of `bits` bits (30_encoding.md R82). -/
def fitsField (bits v : Nat) : Bool := decide (v < 2 ^ bits)

/-- A list of ruler values that `LOADX` or `LOADY` can load: there is at least one (R91 writes `v0, ..., vn`),
every value fits `V24`, and every index fits `IDX` (30_encoding.md R90, R91). -/
def fitsRuler (vs : List Nat) : Bool :=
  !vs.isEmpty && decide (vs.length ≤ 2 ^ 16) && vs.all (fitsField 24)

/-- The assembler's check: it "refuses an operand that does not fit its field (16 bits for `A`, `B`, `IDX`; 8
for `V8`; 24 for `V24`; 32 for `V32`)" and checks nothing else (30_encoding.md R90). -/
def Asm.wellFormed : Asm → Bool
  | .nop => true
  | .openCtx w h => fitsField 16 w && fitsField 16 h
  | .closeCtx => true
  | .setrad r => fitsField 8 r
  | .setpos v => fitsField 32 v
  | .setsize v => fitsField 32 v
  | .clrnp => true
  | .clrst => true
  | .wrx i v => fitsField 16 i && fitsField 24 v
  | .wry j v => fitsField 16 j && fitsField 24 v
  | .rdx i => fitsField 16 i
  | .rdy j => fitsField 16 j
  | .rdpix x y => fitsField 16 x && fitsField 16 y
  | .rdreg n => fitsField 8 n
  | .rdregName _ => true
  | .select => true
  | .stepd => true
  | .stepe => true
  | .loadx vs => fitsRuler vs
  | .loady vs => fitsRuler vs

end Sys2Proof
end

