-- ==== Sys2Proof/Decode.lean ====
section
/-! DEFINITION. The decoder (total on every word and every list of bytes, rejecting by name), the encoder, and
the assembler's translation of a line into commands. -/

namespace Sys2Proof

/-! ## Opcodes and formats -/

/-- The opcode number of a command (30_encoding.md R85). -/
def Op.code : Op → BitVec 8
  | .nop => 0x00#8
  | .openCtx => 0x01#8
  | .closeCtx => 0x02#8
  | .setrad => 0x03#8
  | .setpos => 0x04#8
  | .setsize => 0x05#8
  | .clrnp => 0x06#8
  | .clrst => 0x07#8
  | .wrx => 0x08#8
  | .wry => 0x09#8
  | .rdx => 0x0A#8
  | .rdy => 0x0B#8
  | .rdpix => 0x0C#8
  | .rdreg => 0x0D#8
  | .select => 0x0E#8
  | .stepd => 0x0F#8
  | .stepe => 0x10#8

/-- The command an `OP` byte names; `none` for the reserved values 0x11 to 0xFF (30_encoding.md R85, R86). -/
def Op.ofCode (c : BitVec 8) : Option Op :=
  match c.toNat with
  | 0x00 => some .nop
  | 0x01 => some .openCtx
  | 0x02 => some .closeCtx
  | 0x03 => some .setrad
  | 0x04 => some .setpos
  | 0x05 => some .setsize
  | 0x06 => some .clrnp
  | 0x07 => some .clrst
  | 0x08 => some .wrx
  | 0x09 => some .wry
  | 0x0A => some .rdx
  | 0x0B => some .rdy
  | 0x0C => some .rdpix
  | 0x0D => some .rdreg
  | 0x0E => some .select
  | 0x0F => some .stepd
  | 0x10 => some .stepe
  | _ => none

/-- The format of a command (30_encoding.md R81, column "Used by"; R85). -/
def Op.format : Op → Format
  | .nop | .closeCtx | .clrnp | .clrst | .select | .stepd | .stepe => .n
  | .openCtx | .rdpix => .d
  | .setrad | .rdreg => .b
  | .setpos | .setsize => .v
  | .wrx | .wry => .r
  | .rdx | .rdy => .i

/-- The bits of a format that must be zero (30_encoding.md R81). -/
def Format.reservedMask : Format → BitVec 64
  | .n => 0x00FFFFFFFFFFFFFF#64
  | .d => 0x0000000000FFFFFF#64
  | .b => 0x00FFFFFFFFFFFF00#64
  | .v => 0x00FFFFFF00000000#64
  | .r => 0x000000FFFF000000#64
  | .i => 0x000000FFFFFFFFFF#64

/-- Whether the command needs an open context (30_encoding.md R85; 60_exceptions.md R205). -/
def Op.needsOpen : Op → Bool
  | .wrx | .wry | .rdx | .rdy | .rdpix | .select | .stepd | .stepe => true
  | .nop | .openCtx | .closeCtx | .setrad | .setpos | .setsize | .clrnp | .clrst | .rdreg => false

/-! ## Fields -/

/-- `OP = w[63:56]` (30_encoding.md R80). -/
def fieldOp (w : CmdWord) : BitVec 8 := w.extractLsb' 56 8

/-- `A = w[55:40]`, and `IDX`, which lies in the same bits (30_encoding.md R81). -/
def fieldA (w : CmdWord) : BitVec 16 := w.extractLsb' 40 16

/-- `B = w[39:24]` (30_encoding.md R81). -/
def fieldB (w : CmdWord) : BitVec 16 := w.extractLsb' 24 16

/-- `V8 = w[7:0]` (30_encoding.md R81). -/
def fieldV8 (w : CmdWord) : BitVec 8 := w.extractLsb' 0 8

/-- `V24 = w[23:0]` (30_encoding.md R81). -/
def fieldV24 (w : CmdWord) : BitVec 24 := w.extractLsb' 0 24

/-- `V32 = w[31:0]` (30_encoding.md R81). -/
def fieldV32 (w : CmdWord) : BitVec 32 := w.extractLsb' 0 32

/-- A field of `n` bits at bit `lo` of a word of `k` bits, zeros elsewhere (00_scope.md R2). -/
def placeField (k : Nat) {n : Nat} (v : BitVec n) (lo : Nat) : BitVec k := v.setWidth k <<< lo

/-! ## The decoder -/

/-- The command with the operands that stand in the word, for an opcode already read (30_encoding.md R81). -/
def Op.operands (w : CmdWord) : Op → Instr
  | .nop => .nop
  | .openCtx => .openCtx (fieldA w) (fieldB w)
  | .closeCtx => .closeCtx
  | .setrad => .setrad (fieldV8 w)
  | .setpos => .setpos (fieldV32 w)
  | .setsize => .setsize (fieldV32 w)
  | .clrnp => .clrnp
  | .clrst => .clrst
  | .wrx => .wrx (fieldA w) (fieldV24 w)
  | .wry => .wry (fieldA w) (fieldV24 w)
  | .rdx => .rdx (fieldA w)
  | .rdy => .rdy (fieldA w)
  | .rdpix => .rdpix (fieldA w) (fieldB w)
  | .rdreg => .rdreg (fieldV8 w)
  | .select => .select
  | .stepd => .stepd
  | .stepe => .stepe

/-- The decoder: the command from `OP` alone, then the reserved mask of its format (30_encoding.md R85; the
order of 60_exceptions.md R203). -/
def decode (w : CmdWord) : Except Illegal Instr :=
  match Op.ofCode (fieldOp w) with
  | none => .error (.reservedOpcode (fieldOp w))
  | some op =>
    if w &&& op.format.reservedMask = 0#64 then .ok (op.operands w) else .error (.reservedBits op)

/-- The opcode a command decodes from. -/
def Instr.op : Instr → Op
  | .nop => .nop
  | .openCtx _ _ => .openCtx
  | .closeCtx => .closeCtx
  | .setrad _ => .setrad
  | .setpos _ => .setpos
  | .setsize _ => .setsize
  | .clrnp => .clrnp
  | .clrst => .clrst
  | .wrx _ _ => .wrx
  | .wry _ _ => .wry
  | .rdx _ => .rdx
  | .rdy _ => .rdy
  | .rdpix _ _ => .rdpix
  | .rdreg _ => .rdreg
  | .select => .select
  | .stepd => .stepd
  | .stepe => .stepe

/-- `match = OP << 56` (30_encoding.md R85). -/
def Op.matchWord (op : Op) : BitVec 64 := placeField 64 op.code 56

/-- `mask = 0xFF00000000000000 | reserved mask` (30_encoding.md R85). -/
def Op.matchMask (op : Op) : BitVec 64 := 0xFF00000000000000#64 ||| op.format.reservedMask

/-- The 17 opcodes in the table's order. -/
def opTable : List Op :=
  [.nop, .openCtx, .closeCtx, .setrad, .setpos, .setsize, .clrnp, .clrst, .wrx, .wry, .rdx, .rdy, .rdpix,
   .rdreg, .select, .stepd, .stepe]

/-! ## The encoder -/

/-- The word of a command, laid out by its format (30_encoding.md R81, R85). -/
def encode : Instr → CmdWord
  | .nop => placeField 64 (Op.code .nop) 56
  | .openCtx w h => placeField 64 (Op.code .openCtx) 56 ||| placeField 64 w 40 ||| placeField 64 h 24
  | .closeCtx => placeField 64 (Op.code .closeCtx) 56
  | .setrad r => placeField 64 (Op.code .setrad) 56 ||| placeField 64 r 0
  | .setpos v => placeField 64 (Op.code .setpos) 56 ||| placeField 64 v 0
  | .setsize v => placeField 64 (Op.code .setsize) 56 ||| placeField 64 v 0
  | .clrnp => placeField 64 (Op.code .clrnp) 56
  | .clrst => placeField 64 (Op.code .clrst) 56
  | .wrx i v => placeField 64 (Op.code .wrx) 56 ||| placeField 64 i 40 ||| placeField 64 v 0
  | .wry j v => placeField 64 (Op.code .wry) 56 ||| placeField 64 j 40 ||| placeField 64 v 0
  | .rdx i => placeField 64 (Op.code .rdx) 56 ||| placeField 64 i 40
  | .rdy j => placeField 64 (Op.code .rdy) 56 ||| placeField 64 j 40
  | .rdpix x y => placeField 64 (Op.code .rdpix) 56 ||| placeField 64 x 40 ||| placeField 64 y 24
  | .rdreg n => placeField 64 (Op.code .rdreg) 56 ||| placeField 64 n 0
  | .select => placeField 64 (Op.code .select) 56
  | .stepd => placeField 64 (Op.code .stepd) 56
  | .stepe => placeField 64 (Op.code .stepe) 56

/-! ## Words on a byte channel (30_encoding.md R93) -/

/-- Byte `k` of a word on a byte channel: `word[8k+7:8k]` (30_encoding.md R93). -/
def wordByte (w : BitVec 64) (k : Nat) : Byte := w.extractLsb' (8 * k) 8

/-- The eight bytes of a word in transmission order (30_encoding.md R93). -/
def wordBytes (w : BitVec 64) : List Byte :=
  [wordByte w 0, wordByte w 1, wordByte w 2, wordByte w 3, wordByte w 4, wordByte w 5, wordByte w 6, wordByte w 7]

/-- The word whose bytes arrive in this order, `none` unless there are eight (30_encoding.md R80, R93). -/
def wordOfBytes : List Byte → Option (BitVec 64)
  | [b0, b1, b2, b3, b4, b5, b6, b7] =>
    some (placeField 64 b0 0 ||| placeField 64 b1 8 ||| placeField 64 b2 16 ||| placeField 64 b3 24 |||
      placeField 64 b4 32 ||| placeField 64 b5 40 ||| placeField 64 b6 48 ||| placeField 64 b7 56)
  | _ => none

/-- The decoder on bytes: total, and by name where the bytes are not one word (30_encoding.md R80, R93). -/
def decodeBytes (bs : List Byte) : Except Illegal Instr :=
  match wordOfBytes bs with
  | some w => decode w
  | none => .error (.wrongLength bs.length)

/-! ## The opcode table's words -/

/-- The command word whose bits are `w`, numbered as the opcode table numbers them: one 64-bit word, of which
the table gives `nbits` bits. -/
def tableWord (nbits w : Nat) : CmdWord := BitVec.ofNat 64 (w % 2 ^ nbits)

/-- The command the decoder reads from a word given by its bits as the opcode table numbers them. -/
def decodeTableWord (nbits w : Nat) : Option Instr := (decode (tableWord nbits w)).toOption

/-! ## The assembler's translation (30_encoding.md R90, R91) -/

/-- A register's `RDREG` number (10_state.md R22; 30_encoding.md R90). -/
def RegName.number : RegName → BitVec 8
  | .status => 0#8
  | .opened => 1#8
  | .w => 2#8
  | .h => 3#8
  | .radius => 4#8
  | .pos => 5#8
  | .size => 6#8
  | .numpix => 7#8
  | .maxW => 8#8
  | .maxH => 9#8

/-- `WRX 0, v0`, `WRX 1, v1`, ... from index `k` on (30_encoding.md R91). -/
def loadXFrom (k : Nat) : List Nat → List Instr
  | [] => []
  | v :: vs => .wrx (BitVec.ofNat 16 k) (BitVec.ofNat 24 v) :: loadXFrom (k + 1) vs

/-- `WRY 0, v0`, `WRY 1, v1`, ... from index `k` on (30_encoding.md R91). -/
def loadYFrom (k : Nat) : List Nat → List Instr
  | [] => []
  | v :: vs => .wry (BitVec.ofNat 16 k) (BitVec.ofNat 24 v) :: loadYFrom (k + 1) vs

/-- The commands of a line whose operands fit (30_encoding.md R90, R91). -/
def Asm.commands : Asm → List Instr
  | .nop => [.nop]
  | .openCtx w h => [.openCtx (BitVec.ofNat 16 w) (BitVec.ofNat 16 h)]
  | .closeCtx => [.closeCtx]
  | .setrad r => [.setrad (BitVec.ofNat 8 r)]
  | .setpos v => [.setpos (BitVec.ofNat 32 v)]
  | .setsize v => [.setsize (BitVec.ofNat 32 v)]
  | .clrnp => [.clrnp]
  | .clrst => [.clrst]
  | .wrx i v => [.wrx (BitVec.ofNat 16 i) (BitVec.ofNat 24 v)]
  | .wry j v => [.wry (BitVec.ofNat 16 j) (BitVec.ofNat 24 v)]
  | .rdx i => [.rdx (BitVec.ofNat 16 i)]
  | .rdy j => [.rdy (BitVec.ofNat 16 j)]
  | .rdpix x y => [.rdpix (BitVec.ofNat 16 x) (BitVec.ofNat 16 y)]
  | .rdreg n => [.rdreg (BitVec.ofNat 8 n)]
  | .rdregName r => [.rdreg r.number]
  | .select => [.select]
  | .stepd => [.stepd]
  | .stepe => [.stepe]
  | .loadx vs => loadXFrom 0 vs
  | .loady vs => loadYFrom 0 vs

/-- The assembler: the command words of a line, or `none` where an operand does not fit (30_encoding.md R90). -/
def assemble (a : Asm) : Option (List CmdWord) :=
  if a.wellFormed then some (a.commands.map encode) else none

end Sys2Proof
end

