-- ==== Sys2Proof/Config.lean ====
section
/-! DEFINITION. What the spec leaves to the implementation or to the host: the two size parameters, and the
free values of host memory that the host does not hold. -/

namespace Sys2Proof

/-- The parameter `MAX_W` of 00_scope.md R1 (OPEN, an integer 1..65535), as `State.reset` takes it.
DESIGN CHOICE (log entry 1): 4096, the value of the test vectors. Only `State.reset` uses it: the machine
reads the register `State.maxW`, so a statement about every state holds for every value of the parameter. -/
def Config.maxW : BitVec 16 := 4096#16

/-- The parameter `MAX_H` of 00_scope.md R1, as `Config.maxW`. DESIGN CHOICE (log entry 1). -/
def Config.maxH : BitVec 16 := 4096#16

/-- FREE VALUE (93_implementation_defined.md U5, log entry 2): the byte the block reads at packet address
`addr` where the host holds no byte, in the engine command numbered `epoch`. Within one command it is a
function of the address alone (20_memory.md R52). -/
opaque Config.unbackedByte (epoch addr : Nat) : Byte

/-- FREE VALUE (93_implementation_defined.md U5, log entry 2): the pixel the block reads at column `i`, row
`j` of the target where the host holds no pixel, in the engine command numbered `epoch`. -/
opaque Config.unbackedPixel (epoch i j : Nat) : Pixel

end Sys2Proof
end

