-- ==== Sys2Proof/Machine/State.lean ====
section
/-! DEFINITION. The machine's state, the reasons a step can stop, the small closed types of the machine, and
the state after reset. -/

namespace Sys2Proof.Machine

/-- Why a step could end in a fault: there is no such reason. The block reports every error in the response of
the command and goes on (60_exceptions.md R200, R210), so no meaning raises a fault. -/
inductive Fault where
deriving DecidableEq, Repr

/-- Why a command could have no meaning. -/
inductive Refusal where
  /-- Raised only by an arm of `exec` whose command has no meaning yet; no arm raises it now. Safe: the model
  stops where the hardware goes on. -/
  | notModelled (mnemonic : String)
deriving DecidableEq, Repr

/-- The error codes (60_exceptions.md R202). -/
inductive ErrorCode where
  /-- `E_ILLEGAL`: a reserved opcode or a reserved bit set (R204). -/
  | illegal
  /-- `E_NOT_OPEN`: the command needs an open context (R205). -/
  | notOpen
  /-- `E_BAD_ARG`: an operand out of range (R206). -/
  | badArg
  /-- `E_RESOURCE`: the requested canvas does not fit (R207). -/
  | resource
  /-- `E_CAPACITY`: the iteration needs more sample bytes than `[POS, SIZE)` holds (R208). -/
  | capacity
deriving DecidableEq, Repr

/-- The axis of an iteration (41_engine.md R152). -/
inductive Axis where
  /-- column-major: the pivot is a column of `xErr` -/
  | col
  /-- row-major: the pivot is a row of `yErr` -/
  | row
deriving DecidableEq, Repr

/-- Where an iteration's samples come from (00_scope.md, Glossary: encode mode, decode mode). -/
inductive Mode where
  /-- `STEPD`: from the packet buffer -/
  | decode
  /-- `STEPE`: from the target image, written to the packet buffer -/
  | encode
deriving DecidableEq, Repr

/-- What the selector selects: the axis, the pivot index and the pivot's ruler value `maxError`
(41_engine.md R152, R158). -/
structure Selection where
  axis : Axis
  pivot : Nat
  maxErr : Nat
deriving DecidableEq, Repr

/-- An interval `[lo..hi]` of ruler indices, both ends in it (00_scope.md, Glossary: Range). -/
structure Range where
  lo : Nat
  hi : Nat
deriving DecidableEq, Repr

/-- The state of the block, of the host's two address spaces and of the command and response channels. -/
structure State where
  /-- `STATUS`, bits 4:0; bits 31:5 do not exist and read as 0 (10_state.md R27). -/
  status : BitVec 5
  /-- `OPENED`: a context exists (10_state.md R23). -/
  opened : Bool
  /-- `W`, the canvas width, 0 when closed (10_state.md R24). -/
  w : BitVec 16
  /-- `H`, the canvas height, 0 when closed (10_state.md R24). -/
  h : BitVec 16
  /-- `RADIUS`, the brush radius (10_state.md R25). -/
  radius : BitVec 8
  /-- `POS`, the packet address of the next sample byte (10_state.md R26). -/
  pos : BitVec 32
  /-- `SIZE`, one past the last packet address the engine may touch (10_state.md R26). -/
  size : BitVec 32
  /-- `NUMPIX`, the samples emitted this frame (10_state.md R28). -/
  numpix : BitVec 32
  /-- `MAX_W`, hardwired (10_state.md R22). -/
  maxW : BitVec 16
  /-- `MAX_H`, hardwired (10_state.md R22). -/
  maxH : BitVec 16
  /-- The canvas (10_state.md R29); empty while it holds no value (10_state.md R23). -/
  canvas : Canvas
  /-- The column ruler (10_state.md R31); empty while it holds no value (10_state.md R23). -/
  xErr : Ruler
  /-- The row ruler (10_state.md R31); empty while it holds no value (10_state.md R23). -/
  yErr : Ruler
  /-- `PKT`: the packet bytes the host holds, by address (20_memory.md R51). -/
  pkt : List Host.Cell
  /-- `TGT`: the target pixels the host holds, by the key of their column and row (20_memory.md R55). -/
  tgt : List (Nat × Pixel)
  /-- The command channel: the words the host sends, the next one first (30_encoding.md R80; log entry 3). -/
  cmds : List CmdWord
  /-- The response channel: the words the block has returned, the last one first (30_encoding.md R84; log
  entry 3). -/
  rsps : List RspWord
  /-- The model's own: the number of engine iterations done, at which the free values of host memory are taken
  (log entry 2). -/
  epoch : Nat
deriving DecidableEq, Repr

/-- The machine after reset (70_reset_and_hazards.md R230; `MAX_W` and `MAX_H`: log entry 1). DESIGN CHOICE (log entry 10):
the spec says that `PKT` and `TGT` are the host's and that reset does not touch them, and not what they hold; here both list
nothing, so the host holds no byte and no pixel, and every read of them is a free value (log entry 2). -/
def State.reset : State where
  status := 0#5
  opened := false
  w := 0#16
  h := 0#16
  radius := 5#8
  pos := 0#32
  size := 0#32
  numpix := 0#32
  maxW := Config.maxW
  maxH := Config.maxH
  canvas := []
  xErr := []
  yErr := []
  pkt := []
  tgt := []
  cmds := []
  rsps := []
  epoch := 0

end Sys2Proof.Machine
end

