-- ==== Sys2Proof/Machine/Flags.lean ====
section
/-! DEFINITION. The error codes, their `STATUS` bits and the layouts of the response word. The block has no
condition codes (10_state.md R33): its only flags are the sticky bits of `STATUS`, and `DONE` and `AXIS`, which
stand in a response and are not stored. -/

namespace Sys2Proof.Machine

/-- The number of an error code (60_exceptions.md R202). -/
def ErrorCode.number : ErrorCode → Nat
  | .illegal => 1
  | .notOpen => 2
  | .badArg => 3
  | .resource => 4
  | .capacity => 5

/-- The `CODE` byte of an error response (60_exceptions.md R201, R202). -/
def ErrorCode.code (e : ErrorCode) : BitVec 8 := BitVec.ofNat 8 e.number

/-- The `STATUS` bit of an error code: `1 << (e - 1)` (60_exceptions.md R201; 10_state.md R27). -/
def ErrorCode.statusBit (e : ErrorCode) : BitVec 5 := 1#5 <<< (e.number - 1)

/-- `CODE` of a command that succeeds (30_encoding.md R84). -/
def successCode : BitVec 8 := 0x00#8

/-- The response word: `CODE` in bits 63:56, `DATA` in bits 55:0 (30_encoding.md R84). -/
def responseWord (code : BitVec 8) (data : BitVec 56) : RspWord :=
  placeField 64 code 56 ||| placeField 64 data 0

/-- `CODE` of a response word (30_encoding.md R84). -/
def responseCode (r : RspWord) : BitVec 8 := r.extractLsb' 56 8

/-- `DATA` of a response word (30_encoding.md R84). -/
def responseData (r : RspWord) : BitVec 56 := r.extractLsb' 0 56

/-- `AXIS` of the selection layout: 1 column-major, 0 row-major (30_encoding.md R88). -/
def axisBit : Axis → BitVec 1
  | .col => 1#1
  | .row => 0#1

/-- The selection layout of an iteration that was selected: `MAXERR` at bit 32,
`PIVOT` at bit 16, `AXIS` at bit 1, `DONE = 1` at bit 0, zeros between
(30_encoding.md R88; 41_engine.md R154, R178). -/
def selectionData (sel : Selection) : BitVec 56 :=
  placeField 56 (BitVec.ofNat 24 sel.maxErr) 32 ||| placeField 56 (BitVec.ofNat 16 sel.pivot) 16 |||
    placeField 56 (axisBit sel.axis) 1 ||| placeField 56 1#1 0

/-- The `RDPIX` layout: R in the low byte, padding byte 255 (30_encoding.md R84, R89; 40_control.md R123). -/
def pixelData (p : Pixel) : BitVec 56 :=
  placeField 56 0xFF#8 24 ||| placeField 56 p.b 16 ||| placeField 56 p.g 8 ||| placeField 56 p.r 0

end Sys2Proof.Machine
end

