-- ==== Sys2Proof/Machine/Memory.lean ====
section
/-! DEFINITION. Host memory as a list of cells in one canonical form, and the block's accesses to the two host
address spaces (20_memory.md §1). -/

namespace Sys2Proof.Machine

/-! ## Cells -/

/-- The value listed at a key; `none` where the host holds nothing (log entry 2). -/
def cellAt {α : Type} : List (Nat × α) → Nat → Option α
  | [], _ => none
  | (b, v) :: m, a => if a = b then some v else cellAt m a

/-- The cells after `v` is stored at `a`: one entry for `a`, the keys still rising. -/
def cellSet {α : Type} : List (Nat × α) → Nat → α → List (Nat × α)
  | [], a, v => [(a, v)]
  | (b, u) :: m, a, v =>
    if a < b then (a, v) :: (b, u) :: m
    else if a = b then (a, v) :: m
    else (b, u) :: cellSet m a v

/-- The cells after the values `vs` are stored at `a`, `a + 1`, and so on. -/
def cellsSet {α : Type} (m : List (Nat × α)) (a : Nat) : List α → List (Nat × α)
  | [] => m
  | v :: vs => cellsSet (cellSet m a v) (a + 1) vs

/-- The canonical form: keys strictly rising, each at least `low` and below `top`. An unlisted key reads as "the
host holds nothing", which no listed entry is. -/
def cellsWf {α : Type} (top : Nat) : Nat → List (Nat × α) → Bool
  | _, [] => true
  | low, (a, _) :: m => decide (low ≤ a) && decide (a < top) && cellsWf top (a + 1) m

/-! ## PKT (20_memory.md R51 to R54) -/

/-- One past the highest packet address: `PKT` has 32-bit addresses (20_memory.md R51). -/
def pktTop : Nat := 2 ^ 32

/-- The packet buffer is in canonical form. -/
def pktWf (m : List Host.Cell) : Bool := cellsWf pktTop 0 m

/-- `PktRead(a)`: the byte the host holds at `a` (20_memory.md R52); where it holds none, the free value of this
engine command (93_implementation_defined.md U5, log entry 2). -/
def pktRead (s : State) (a : Nat) : Byte := (cellAt s.pkt a).getD (Config.unbackedByte s.epoch a)

/-- `PktWrite(a, v)` (20_memory.md R53). DESIGN CHOICE (log entry 11): a write to an address at which the host holds no byte
makes it one that holds `v`, so a later read there gives `v`; R67 and U5 leave a read of an unbacked address open. -/
def pktWrite (s : State) (a : Nat) (v : Byte) : State := { s with pkt := cellSet s.pkt a v }

/-- The sample at packet address `a`: R, G, B at `a`, `a+1`, `a+2` (20_memory.md R54). -/
def pktReadSample (s : State) (a : Nat) : Pixel :=
  { r := pktRead s a, g := pktRead s (a + 1), b := pktRead s (a + 2) }

/-- The three writes of a sample at packet address `a`, R first (20_memory.md R54; 41_engine.md R165). -/
def pktWriteSample (s : State) (a : Nat) (p : Pixel) : State :=
  pktWrite (pktWrite (pktWrite s a p.r) (a + 1) p.g) (a + 2) p.b

/-! ## TGT (20_memory.md R55, R56) -/

/-- The key of the target pixel at column `i`, row `j`: coordinates are below 2^16 (00_scope.md R1), so two
pixels never share one. It says nothing of how the host lays its image out (20_memory.md R56). -/
def tgtKey (i j : Nat) : Nat := j * 65536 + i

/-- One past the highest target key. -/
def tgtTop : Nat := 2 ^ 32

/-- The target image is in canonical form. -/
def tgtWf (m : List (Nat × Pixel)) : Bool := cellsWf tgtTop 0 m

/-- `TgtRead(i, j)`: the pixel the host holds at column `i`, row `j` (20_memory.md R55); where it holds none, the
free value of this engine command (93_implementation_defined.md U5, log entry 2). -/
def tgtRead (s : State) (i j : Nat) : Pixel :=
  (cellAt s.tgt (tgtKey i j)).getD (Config.unbackedPixel s.epoch i j)

end Sys2Proof.Machine
end

