-- ==== Sys2Proof/Machine/Ops.lean ====
section
/-! DEFINITION. The operations the meanings share: responding, raising an error, the open-context check, the
registers by number, the context store, and the command channel. -/

namespace Sys2Proof.Machine

/-! ## Responses and errors -/

/-- `respond(code, data)`: the one response of the current command (30_encoding.md R84). -/
def respond (code : BitVec 8) (data : BitVec 56) (s : State) : State :=
  { s with rsps := responseWord code data :: s.rsps }

/-- The response of a command that succeeds with `data` (40_control.md R110). -/
def succeed (data : BitVec 56) (s : State) : State := respond successCode data s

/-- `raise E(e)`: set the sticky bit of the code, respond with the code and `DATA = 0`, and change nothing else
(60_exceptions.md R200, R201). It is the block's whole exception entry: there is no trap (R210) and so no return
from one (R211). -/
def raiseError (e : ErrorCode) (s : State) : State :=
  respond e.code 0#56 { s with status := s.status ||| e.statusBit }

/-- The open-context check: `E_NOT_OPEN` where no context is open, else `act` (60_exceptions.md R203, R205). -/
def whenOpen (s : State) (act : State) : State := if s.opened then act else raiseError .notOpen s

/-! ## The context store -/

/-- The value of ruler entry `k` as an unsigned integer. An entry that does not exist reads as 0 (log entry 5);
no rule reads one. -/
def entry (p : Ruler) (k : Nat) : Nat := (p.getD k 0#24).toNat

/-- `xErr[i] <- v` (00_scope.md R3). -/
def writeX (i : Nat) (v : BitVec 24) (s : State) : State := { s with xErr := s.xErr.set i v }

/-- `yErr[j] <- v` (00_scope.md R3). -/
def writeY (j : Nat) (v : BitVec 24) (s : State) : State := { s with yErr := s.yErr.set j v }

/-- The pixel at column `i`, row `j` of a canvas (00_scope.md R6). A pixel that does not exist reads as black
(log entry 5); no rule reads one. -/
def pixelOf (c : Canvas) (i j : Nat) : Pixel := (c.getD j []).getD i ⟨0#8, 0#8, 0#8⟩

/-- `canvas[i,j]` (00_scope.md R3). -/
def pixel (s : State) (i j : Nat) : Pixel := pixelOf s.canvas i j

/-- Mid gray, every channel 0x7F (10_state.md R30). -/
def gray : Pixel := { r := 0x7F#8, g := 0x7F#8, b := 0x7F#8 }

/-- The canvas right after `OPEN` (10_state.md R30). -/
def grayCanvas (w h : Nat) : Canvas := List.replicate h (List.replicate w gray)

/-- A ruler right after `OPEN` (10_state.md R32). -/
def zeroRuler (n : Nat) : Ruler := List.replicate n 0#24

/-- A new context of `a` columns and `b` rows: the state changes of `OPEN` (40_control.md R112). -/
def newContext (a b : BitVec 16) (s : State) : State :=
  { s with
    opened := true
    w := a
    h := b
    canvas := grayCanvas a.toNat b.toNat
    xErr := zeroRuler a.toNat
    yErr := zeroRuler b.toNat
    radius := 5#8
    pos := 0#32
    size := 0#32
    numpix := 0#32 }

/-- No context: the state changes of `CLOSE` (40_control.md R113). -/
def dropContext (s : State) : State :=
  { s with opened := false, w := 0#16, h := 0#16, canvas := [], xErr := [], yErr := [] }

/-! ## The command channel -/

/-- The next command word and the state in which it is performed; `none` where the host has sent none
(30_encoding.md R80; log entry 3). -/
def nextCommand (s : State) : Option (CmdWord × State) :=
  match s.cmds with
  | [] => none
  | w :: rest => some (w, { s with cmds := rest })

/-- The block with no command to perform: it "holds its state and does nothing" (60_exceptions.md R216;
70_reset_and_hazards.md R231). -/
def idle (s : State) : State := s

/-- A word that is no command ends with `E_ILLEGAL` (30_encoding.md R83, R86; 60_exceptions.md R204). -/
def illegalWord (s : State) : State := raiseError .illegal s

/-- `s` with the word `cmd` as the next one the host sends. -/
def placeCommand (cmd : CmdWord) (s : State) : State := { s with cmds := cmd :: s.cmds }

/-! ## The host's side: what the host may do between two commands (20_memory.md R63, R67; log entry 3) -/

/-- The host sends one more word, after those it sends already. -/
def hostSend (cmd : CmdWord) (s : State) : State := { s with cmds := s.cmds ++ [cmd] }

/-- The host stores bytes in the packet buffer from address `a` on; it holds no byte at 2^32 or above. -/
def hostPlacePkt (a : Nat) (bs : List Byte) (s : State) : State :=
  { s with pkt := cellsSet s.pkt a (bs.take (pktTop - a)) }

/-- The host presents the pixel at column `i`, row `j` of the target image. -/
def hostPlaceTgt (i j : BitVec 16) (p : Pixel) (s : State) : State :=
  { s with tgt := cellSet s.tgt (tgtKey i.toNat j.toNat) p }

end Sys2Proof.Machine
end

