-- ==== Sys2Proof/Machine/Operands.lean ====
section
/-! DEFINITION. Operand checks, the registers by number, and the data a reading command responds with. -/

namespace Sys2Proof.Machine

/-- `OPEN`'s first check: a width or height of 0 (40_control.md R112; 60_exceptions.md R206). -/
def sizeZero (a b : BitVec 16) : Bool := a == 0#16 || b == 0#16

/-- `OPEN`'s second check: a width above `MAX_W` or a height above `MAX_H` (40_control.md R112; 60_exceptions.md
R207). -/
def sizeTooLarge (a b : BitVec 16) (s : State) : Bool :=
  decide (s.maxW.toNat < a.toNat) || decide (s.maxH.toNat < b.toNat)

/-- A column index that exists: `i < W` (60_exceptions.md R206). -/
def columnOk (i : BitVec 16) (s : State) : Bool := decide (i.toNat < s.w.toNat)

/-- A row index that exists: `j < H` (60_exceptions.md R206). -/
def rowOk (j : BitVec 16) (s : State) : Bool := decide (j.toNat < s.h.toNat)

/-- The register an `RDREG` number names; `none` above 9 (10_state.md R22; 40_control.md R124). -/
def regOfNumber (n : BitVec 8) : Option RegName :=
  match n.toNat with
  | 0 => some .status
  | 1 => some .opened
  | 2 => some .w
  | 3 => some .h
  | 4 => some .radius
  | 5 => some .pos
  | 6 => some .size
  | 7 => some .numpix
  | 8 => some .maxW
  | 9 => some .maxH
  | _ => none

/-- The value of a register, zero-extended to 32 bits (10_state.md R22, R27; 30_encoding.md R84). -/
def readRegister (s : State) : RegName → BitVec 32
  | .status => s.status.setWidth 32
  | .opened => if s.opened then 1#32 else 0#32
  | .w => s.w.setWidth 32
  | .h => s.h.setWidth 32
  | .radius => s.radius.setWidth 32
  | .pos => s.pos
  | .size => s.size
  | .numpix => s.numpix
  | .maxW => s.maxW.setWidth 32
  | .maxH => s.maxH.setWidth 32

/-- `DATA` of `RDREG`: the register in bits 31:0, zeros above (30_encoding.md R84). -/
def registerData (v : BitVec 32) : BitVec 56 := v.setWidth 56

/-- `DATA` of `RDX` and `RDY`: `zext_56` of the entry (40_control.md R121, R122). -/
def entryData (p : Ruler) (k : Nat) : BitVec 56 := (p.getD k 0#24).setWidth 56

end Sys2Proof.Machine
end

