-- ==== Sys2Proof/Machine/Access.lean ====
section
/-! DEFINITION. The meanings of WRX, WRY, RDX, RDY, RDPIX and RDREG (40_control.md R119 to R124). -/

namespace Sys2Proof.Machine

/-- `WRX i, v` (40_control.md R119). -/
def execWrx (i : BitVec 16) (v : BitVec 24) (s : State) : Host.Outcome State Fault Refusal :=
  .next <| whenOpen s <|
    if columnOk i s then succeed 0#56 (writeX i.toNat v s) else raiseError .badArg s

/-- `WRY j, v` (40_control.md R120). -/
def execWry (j : BitVec 16) (v : BitVec 24) (s : State) : Host.Outcome State Fault Refusal :=
  .next <| whenOpen s <|
    if rowOk j s then succeed 0#56 (writeY j.toNat v s) else raiseError .badArg s

/-- `RDX i` (40_control.md R121). -/
def execRdx (i : BitVec 16) (s : State) : Host.Outcome State Fault Refusal :=
  .next <| whenOpen s <|
    if columnOk i s then succeed (entryData s.xErr i.toNat) s else raiseError .badArg s

/-- `RDY j` (40_control.md R122). -/
def execRdy (j : BitVec 16) (s : State) : Host.Outcome State Fault Refusal :=
  .next <| whenOpen s <|
    if rowOk j s then succeed (entryData s.yErr j.toNat) s else raiseError .badArg s

/-- `RDPIX x, y` (40_control.md R123). -/
def execRdpix (x y : BitVec 16) (s : State) : Host.Outcome State Fault Refusal :=
  .next <| whenOpen s <|
    if columnOk x s && rowOk y s then succeed (pixelData (pixel s x.toNat y.toNat)) s
    else raiseError .badArg s

/-- `RDREG n` (40_control.md R124). It needs no open context. -/
def execRdreg (n : BitVec 8) (s : State) : Host.Outcome State Fault Refusal :=
  .next <|
    match regOfNumber n with
    | some r => succeed (registerData (readRegister s r)) s
    | none => raiseError .badArg s

end Sys2Proof.Machine
end

