-- ==== Sys2Proof/Machine/Configure.lean ====
section
/-! DEFINITION. The meanings of SETRAD, SETPOS, SETSIZE, CLRNP and CLRST (40_control.md R114 to R118). -/

namespace Sys2Proof.Machine

/-- `SETRAD r` (40_control.md R114). -/
def execSetrad (r : BitVec 8) (s : State) : Host.Outcome State Fault Refusal :=
  .next <| if r = 0#8 then raiseError .badArg s else succeed 0#56 { s with radius := r }

/-- `SETPOS v` (40_control.md R115). -/
def execSetpos (v : BitVec 32) (s : State) : Host.Outcome State Fault Refusal :=
  .next (succeed 0#56 { s with pos := v })

/-- `SETSIZE v` (40_control.md R116). -/
def execSetsize (v : BitVec 32) (s : State) : Host.Outcome State Fault Refusal :=
  .next (succeed 0#56 { s with size := v })

/-- `CLRNP` (40_control.md R117). -/
def execClrnp (s : State) : Host.Outcome State Fault Refusal := .next (succeed 0#56 { s with numpix := 0#32 })

/-- `CLRST` (40_control.md R118). -/
def execClrst (s : State) : Host.Outcome State Fault Refusal := .next (succeed 0#56 { s with status := 0#5 })

end Sys2Proof.Machine
end

