-- ==== Sys2Proof/Machine/Context.lean ====
section
/-! DEFINITION. The meanings of NOP, OPEN and CLOSE (40_control.md R111 to R113). -/

namespace Sys2Proof.Machine

/-- `NOP` (40_control.md R111). -/
def execNop (s : State) : Host.Outcome State Fault Refusal := .next (succeed 0#56 s)

/-- `OPEN w, h` (40_control.md R112): `E_BAD_ARG` is checked before `E_RESOURCE`. -/
def execOpen (a b : BitVec 16) (s : State) : Host.Outcome State Fault Refusal :=
  .next <|
    if sizeZero a b then raiseError .badArg s
    else if sizeTooLarge a b s then raiseError .resource s
    else succeed 0#56 (newContext a b s)

/-- `CLOSE` (40_control.md R113). -/
def execClose (s : State) : Host.Outcome State Fault Refusal := .next (succeed 0#56 (dropContext s))

end Sys2Proof.Machine
end

