-- ==== Sys2Proof/Machine/Float.lean ====
section
/-! DEFINITION. Binary32 arithmetic on exact values (00_scope.md R4, R5). A binary32 value is held as the rational
number it is; every operation computes exactly and rounds once, to nearest, ties to even. -/

namespace Sys2Proof.Machine

/-- A binary32 value, as the real number it stands for (00_scope.md R4: "Comparisons ... compare real values";
log entry 6). -/
abbrev F32 := Rat

/-- `2^e`. -/
def pow2 : Int → Rat
  | .ofNat n => ((2 ^ n : Nat) : Rat)
  | .negSucc n => mkRat 1 (2 ^ (n + 1))

/-- `floor(log2 q)` for `q > 0` (00_scope.md R4). -/
def floorLog2 (q : Rat) : Int :=
  let k : Int := (Nat.log2 q.num.toNat : Int) - (Nat.log2 q.den : Int)
  if pow2 k ≤ q then k else k - 1

/-- The integer nearest to `a / b`, the even one on a tie (00_scope.md R5). -/
def rneDiv (a b : Nat) : Nat :=
  if 2 * (a % b) < b then a / b
  else if b < 2 * (a % b) then a / b + 1
  else a / b + a / b % 2

/-- `rne(q)` for `q ≥ 0` (00_scope.md R5). -/
def rne (q : Rat) : Nat := rneDiv q.num.toNat q.den

/-- The spacing of binary32 values around `q > 0`: `u = 2^(e-23)` with `e = floor(log2 q)` (00_scope.md R4). -/
def ulp (q : Rat) : Rat := pow2 (floorLog2 q - 23)

/-- `rnd(q)` for `q > 0` in the normal range: `u * rne(q / u)` (00_scope.md R4). DEDUCED (log entry 6): the formula is taken at
every exponent, since no rule reaches a number outside that range. -/
def rndPos (q : Rat) : F32 := ulp q * (rne (q / ulp q) : Rat)

/-- `rnd(q)`: the binary32 value nearest to `q` (00_scope.md R4). -/
def rnd (q : Rat) : F32 := if q = 0 then 0 else if 0 < q then rndPos q else -(rndPos (-q))

/-- `f32(n)` for `n < 2^24`: exact (00_scope.md R4). -/
def f32 (n : Nat) : F32 := (n : Rat)

/-- `fadd` (00_scope.md R4). -/
def fadd (a b : F32) : F32 := rnd (a + b)

/-- `fsub` (00_scope.md R4). -/
def fsub (a b : F32) : F32 := rnd (a - b)

/-- `fmul` (00_scope.md R4). -/
def fmul (a b : F32) : F32 := rnd (a * b)

/-- `fdiv` for `b ≠ 0` (00_scope.md R4). -/
def fdiv (a b : F32) : F32 := rnd (a / b)

/-- The integer square root of `n`, for `n < 4^k`. -/
def isqrtBits : Nat → Nat → Nat
  | 0, _ => 0
  | k + 1, n =>
    let r := 2 * isqrtBits k (n / 4)
    if (r + 1) * (r + 1) ≤ n then r + 1 else r

/-- The integer square root: the largest `r` with `r * r ≤ n`. -/
def isqrt (n : Nat) : Nat := isqrtBits (Nat.log2 n + 1) n

/-- The integer nearest to the square root of `x ≥ 0`, the even one on a tie (00_scope.md R5). With `n` the floor
of the root, the tie is at `n + 1/2`, whose square is `(2n+1)^2 / 4`. -/
def rneSqrt (x : Rat) : Nat :=
  let n := isqrt (x.num.toNat / x.den)
  if 4 * x < ((2 * n + 1) * (2 * n + 1) : Nat) then n
  else if ((2 * n + 1) * (2 * n + 1) : Nat) < 4 * x then n + 1
  else n + n % 2

/-- The spacing of binary32 values around the square root of `a > 0`: its exponent is half of that of `a`, rounded
down. -/
def sqrtUlp (a : Rat) : Rat := pow2 (floorLog2 a / 2 - 23)

/-- `fsqrt(a) = rnd(sqrt(a))` for `a ≥ 0` (00_scope.md R4). -/
def fsqrt (a : F32) : F32 :=
  if a = 0 then 0 else sqrtUlp a * (rneSqrt (a / (sqrtUlp a * sqrtUlp a)) : Rat)

end Sys2Proof.Machine
end

