-- ==== Sys2Proof/Machine/Selector.lean ====
section
/-! DEFINITION. The error_ruler_selector: SPLASH Steps 1 and 2 (41_engine.md R151 to R155). -/

namespace Sys2Proof.Machine

/-- `worst(P, n)`: the maximum of the first `n` entries and the lowest index that holds it; `(0, 0)` where all are
zero. The strict comparison keeps the first occurrence (41_engine.md R151). -/
def worst (p : Ruler) : Nat → Nat × Nat
  | 0 => (0, 0)
  | k + 1 =>
    let before := worst p k
    if before.1 < entry p k then (entry p k, k) else before

/-- The selection of the next iteration; `none` where both rulers are all zero (41_engine.md R152, R153). Ties
between the rulers are row-major. -/
def selection (s : State) : Option Selection :=
  let wx := worst s.xErr s.w.toNat
  let wy := worst s.yErr s.h.toNat
  if wx.1 + wy.1 = 0 then none
  else if wy.1 < wx.1 then some { axis := .col, pivot := wx.2, maxErr := entry s.xErr wx.2 }
  else some { axis := .row, pivot := wy.2, maxErr := entry s.yErr wy.2 }

/-- The pivot ruler `P` of an axis (41_engine.md R152). -/
def pivotRuler (s : State) : Axis → Ruler
  | .col => s.xErr
  | .row => s.yErr

/-- The length `nP` of the pivot ruler (41_engine.md R152). -/
def pivotLength (s : State) : Axis → Nat
  | .col => s.w.toNat
  | .row => s.h.toNat

/-- The perpendicular ruler `Q` of an axis (41_engine.md R152). -/
def perpRuler (s : State) : Axis → Ruler
  | .col => s.yErr
  | .row => s.xErr

/-- The length `nQ` of the perpendicular ruler (41_engine.md R152). -/
def perpLength (s : State) : Axis → Nat
  | .col => s.h.toNat
  | .row => s.w.toNat

/-- `P <- p`: the pivot ruler replaced (41_engine.md R161). -/
def setPivotRuler (s : State) (axis : Axis) (p : Ruler) : State :=
  match axis with
  | .col => { s with xErr := p }
  | .row => { s with yErr := p }

end Sys2Proof.Machine
end

