-- ==== Sys2Proof/Machine/RulerUpdate.lean ====
section
/-! DEFINITION. The ruler_update_engine: SPLASH Steps 3, 4 and 5(b) (41_engine.md R156 to R162, R166). -/

namespace Sys2Proof.Machine

/-- The left loop of `expand`, with `steps` steps left before the radius is reached (41_engine.md R156). -/
def expandLeft (p : Ruler) : Nat → Nat → Nat
  | 0, lo => lo
  | steps + 1, lo => if 0 < lo ∧ entry p (lo - 1) ≠ 0 then expandLeft p steps (lo - 1) else lo

/-- The right loop of `expand`, with `steps` steps left before the radius is reached (41_engine.md R156). -/
def expandRight (p : Ruler) (n : Nat) : Nat → Nat → Nat
  | 0, hi => hi
  | steps + 1, hi => if hi + 1 < n ∧ entry p (hi + 1) ≠ 0 then expandRight p n steps (hi + 1) else hi

/-- `expand(P, n, c)` for the radius `r`: at most `r` steps on each side, stopping at the edge and before a zero
entry (41_engine.md R156). -/
def expand (p : Ruler) (n r c : Nat) : Range := { lo := expandLeft p r c, hi := expandRight p n r c }

/-- The cross lines: the exact lines of a perpendicular ruler of length `n`, in increasing order (41_engine.md
R159). -/
def crossLines (q : Ruler) (n : Nat) : List Nat := (List.range n).filter fun k => entry q k == 0

/-- `|a - b|`, exact (00_scope.md R2). -/
def distance (a b : Nat) : Nat := (a - b) + (b - a)

/-- `scale(x, d)` for the radius `r`: divide first, then multiply, each rounded to binary32, then to an integer
(41_engine.md R160). -/
def scale (x d r : Nat) : Nat := rne (fmul (f32 x) (fdiv (f32 d) (f32 r)))

/-- The new value of an entry `x` of the pivot range at distance `d > 0`: the scaled value, 1 where scaling made it
zero (41_engine.md R161). -/
def rescaled (x d r : Nat) : Nat := if scale x d r = 0 then 1 else scale x d r

/-- One entry after rebalancing: the pivot is 0, the rest of the pivot range is rescaled, an entry outside it is
unchanged (41_engine.md R161). -/
def rebalancedEntry (rng : Range) (c r k : Nat) (x : BitVec 24) : BitVec 24 :=
  if k = c then 0#24
  else if rng.lo ≤ k ∧ k ≤ rng.hi then BitVec.ofNat 24 (rescaled x.toNat (distance k c) r)
  else x

/-- Rebalancing: every entry reads only its own old value, so they are computed side by side (41_engine.md R161). -/
def rebalance (p : Ruler) (rng : Range) (c r : Nat) : Ruler := p.mapIdx fun k x => rebalancedEntry rng c r k x

end Sys2Proof.Machine
end

