-- ==== Sys2Proof/Machine/Blender.lean ====
section
/-! DEFINITION. The splash_blender: SPLASH Step 5, and the whole engine iteration (41_engine.md R163 to R178). -/

namespace Sys2Proof.Machine

/-! ## One pixel -/

/-- `dsq`, the squared distance of `(ii, jj)` from the cross point (41_engine.md R168). -/
def distSq (ii jj ci cj : Nat) : Nat := distance ii ci * distance ii ci + distance jj cj * distance jj cj

/-- `fillAlpha` in binary32 (41_engine.md R168). -/
def fillAlpha (dsq r : Nat) : F32 := fsub 1 (fdiv (fsqrt (f32 dsq)) (f32 r))

/-- The disk cut-off as the integer test that R169 gives in place of `fillAlpha <= 0`: the pixel is kept
(41_engine.md R169, R176). -/
def insideDisk (dsq r : Nat) : Bool := decide (dsq < r * r)

/-- `xy`: half the sum of the two entries' shares of `maxError` (41_engine.md R170). -/
def errorWeight (x y m : Nat) : F32 := fdiv (fadd (fdiv (f32 x) (f32 m)) (fdiv (f32 y) (f32 m))) 2

/-- `alpha`, with the clamp that never acts (41_engine.md R171). -/
def blendAlpha (x y m : Nat) : Nat :=
  (min 256 (max 0 ((256 : Int) - (rne (fmul 256 (errorWeight x y m)) : Int)))).toNat

/-- One channel of the blend: `(s * alpha + o * (256 - alpha)) >> 8` (41_engine.md R172). -/
def blendChannel (s o : Byte) (alpha : Nat) : Byte :=
  BitVec.ofNat 8 ((s.toNat * alpha + o.toNat * (256 - alpha)) / 256)

/-- The blend of a sample into a pixel, channel by channel (41_engine.md R172). -/
def blendPixel (s o : Pixel) (alpha : Nat) : Pixel :=
  { r := blendChannel s.r o.r alpha, g := blendChannel s.g o.g alpha, b := blendChannel s.b o.b alpha }

/-! ## One splat -/

/-- The splat of one cross point: its place, its region, the sample, and the rulers, radius and `maxError` its
weights are computed from (41_engine.md R167 to R172). -/
structure Splat where
  /-- column of the cross point -/
  ci : Nat
  /-- row of the cross point -/
  cj : Nat
  /-- columns of the region -/
  cols : Range
  /-- rows of the region -/
  rows : Range
  /-- the sample -/
  sample : Pixel
  /-- `xErr` at this point of the iteration -/
  xErr : Ruler
  /-- `yErr` at this point of the iteration -/
  yErr : Ruler
  /-- `maxError` -/
  maxErr : Nat
  /-- `R` -/
  radius : Nat
deriving DecidableEq, Repr

/-- An index lies in a range. -/
def inRange (rng : Range) (k : Nat) : Bool := decide (rng.lo ≤ k) && decide (k ≤ rng.hi)

/-- The splat writes the pixel at column `ii`, row `jj`: it lies in the region and inside the disk (41_engine.md
R167, R168). -/
def splatCovers (p : Splat) (ii jj : Nat) : Bool :=
  inRange p.cols ii && inRange p.rows jj && insideDisk (distSq ii jj p.ci p.cj) p.radius

/-- The pixel at column `ii`, row `jj` after the splat, from the pixel before it (41_engine.md R168 to R172). -/
def splatPixel (p : Splat) (ii jj : Nat) (o : Pixel) : Pixel :=
  if splatCovers p ii jj then blendPixel p.sample o (blendAlpha (entry p.xErr ii) (entry p.yErr jj) p.maxErr) else o

/-- The canvas after a splat. No pixel's value depends on another pixel of the same splat, so they are computed side
by side (41_engine.md R174; 20_memory.md R64). -/
def splatCanvas (p : Splat) (c : Canvas) : Canvas :=
  c.mapIdx fun jj row => if inRange p.rows jj then row.mapIdx fun ii o => splatPixel p ii jj o else row

/-! ## The perpendicular walk -/

/-- Obtaining a sample in decode mode: three packet bytes at `POS`, which moves by 3 (41_engine.md R164). -/
def takeSampleD (s : State) : Pixel × State := (pktReadSample s s.pos.toNat, { s with pos := s.pos + 3#32 })

/-- Obtaining a sample in encode mode: the target pixel at the cross point, written to the packet at `POS`, which
moves by 3, and counted (41_engine.md R165). -/
def takeSampleE (ci cj : Nat) (s : State) : Pixel × State :=
  let p := tgtRead s ci cj
  (p, { pktWriteSample s s.pos.toNat p with pos := s.pos + 3#32, numpix := s.numpix + 1#32 })

/-- Obtaining a sample in either mode (41_engine.md R163). -/
def takeSample (mode : Mode) (ci cj : Nat) (s : State) : Pixel × State :=
  match mode with
  | .decode => takeSampleD s
  | .encode => takeSampleE ci cj s

/-- The column of cross line `k`'s cross point (41_engine.md R163, R175). -/
def crossColumn (sel : Selection) (k : Nat) : Nat :=
  match sel.axis with
  | .col => sel.pivot
  | .row => k

/-- The row of cross line `k`'s cross point (41_engine.md R163, R175). -/
def crossRow (sel : Selection) (k : Nat) : Nat :=
  match sel.axis with
  | .col => k
  | .row => sel.pivot

/-- The columns of a splat region, from the pivot range and the perpendicular range (41_engine.md R167). -/
def regionColumns (axis : Axis) (pivotRange perpRange : Range) : Range :=
  match axis with
  | .col => pivotRange
  | .row => perpRange

/-- The rows of a splat region, from the pivot range and the perpendicular range (41_engine.md R167). -/
def regionRows (axis : Axis) (pivotRange perpRange : Range) : Range :=
  match axis with
  | .col => perpRange
  | .row => pivotRange

/-- The splat of cross line `k` in the state `s`, whose rulers are the rebalanced ones (41_engine.md R166 to
R170). -/
def splatOf (sel : Selection) (pivotRange : Range) (sample : Pixel) (s : State) (k : Nat) : Splat :=
  let perpRange := expand (perpRuler s sel.axis) (perpLength s sel.axis) s.radius.toNat k
  { ci := crossColumn sel k
    cj := crossRow sel k
    cols := regionColumns sel.axis pivotRange perpRange
    rows := regionRows sel.axis pivotRange perpRange
    sample := sample
    xErr := s.xErr
    yErr := s.yErr
    maxErr := sel.maxErr
    radius := s.radius.toNat }

/-- One cross point, completed before the next begins: its sample, then its splat (41_engine.md R163). -/
def crossPoint (mode : Mode) (sel : Selection) (pivotRange : Range) (s : State) (k : Nat) : State :=
  let taken := takeSample mode (crossColumn sel k) (crossRow sel k) s
  { taken.2 with canvas := splatCanvas (splatOf sel pivotRange taken.1 s k) taken.2.canvas }

/-! ## The iteration -/

/-- The pivot range, from the pivot ruler before rebalancing (41_engine.md R157). -/
def pivotRange (s : State) (sel : Selection) : Range :=
  expand (pivotRuler s sel.axis) (pivotLength s sel.axis) s.radius.toNat sel.pivot

/-- The cross lines of an iteration (41_engine.md R159). -/
def crossOf (s : State) (sel : Selection) : List Nat := crossLines (perpRuler s sel.axis) (perpLength s sel.axis)

/-- The capacity check fails: there are cross lines and `POS + 3N > SIZE`, in exact arithmetic (41_engine.md
R159). -/
def overCapacity (s : State) (sel : Selection) : Bool :=
  let n := (crossOf s sel).length
  decide (0 < n) && decide (s.size.toNat < s.pos.toNat + 3 * n)

/-- The state with the pivot ruler rebalanced (41_engine.md R161). -/
def rebalanced (s : State) (sel : Selection) : State :=
  setPivotRuler s sel.axis
    (rebalance (pivotRuler s sel.axis) (pivotRange s sel) sel.pivot s.radius.toNat)

/-- The state changes of a selected iteration that passes its capacity check: rebalance, then the cross points in
increasing order (41_engine.md R176, R177). The model's own `epoch` moves on (log entry 2). -/
def iterate (mode : Mode) (s : State) (sel : Selection) : State :=
  let walked := (crossOf s sel).foldl (crossPoint mode sel (pivotRange s sel)) (rebalanced s sel)
  { walked with epoch := walked.epoch + 1 }

/-- An engine command on an open context (41_engine.md R153, R159, R176, R177, R178). -/
def engineCommand (mode : Mode) (s : State) : State :=
  match selection s with
  | none => succeed 0#56 s
  | some sel =>
    if overCapacity s sel then raiseError .capacity s
    else succeed (selectionData sel) (iterate mode s sel)

end Sys2Proof.Machine
end

