-- ==== Sys2Proof/Machine/Engine.lean ====
section
/-! DEFINITION. The meanings of SELECT, STEPD and STEPE (41_engine.md R154, R176, R177). -/

namespace Sys2Proof.Machine

/-- `DATA` of `SELECT`: the selection layout, 0 where nothing is selected (41_engine.md R154). -/
def selectData (s : State) : BitVec 56 :=
  match selection s with
  | none => 0#56
  | some sel => selectionData sel

/-- `SELECT` (41_engine.md R154). -/
def execSelect (s : State) : Host.Outcome State Fault Refusal :=
  .next <| whenOpen s <| succeed (selectData s) s

/-- `STEPD`: one engine iteration in decode mode (41_engine.md R176). -/
def execStepd (s : State) : Host.Outcome State Fault Refusal :=
  .next <| whenOpen s <| engineCommand .decode s

/-- `STEPE`: one engine iteration in encode mode (41_engine.md R177). -/
def execStepe (s : State) : Host.Outcome State Fault Refusal :=
  .next <| whenOpen s <| engineCommand .encode s

end Sys2Proof.Machine
end

