-- ==== Sys2Proof/Machine/Dispatch.lean ====
section
/-! DEFINITION. One arm per command: each is one call of the command's meaning. -/

namespace Sys2Proof.Machine

def exec (i : Instr) (s : State) : Host.Outcome State Fault Refusal :=
  match i with
  | .nop => Sys2Proof.Machine.execNop s
  | .openCtx a b => Sys2Proof.Machine.execOpen a b s
  | .closeCtx => Sys2Proof.Machine.execClose s
  | .setrad r => Sys2Proof.Machine.execSetrad r s
  | .setpos v => Sys2Proof.Machine.execSetpos v s
  | .setsize v => Sys2Proof.Machine.execSetsize v s
  | .clrnp => Sys2Proof.Machine.execClrnp s
  | .clrst => Sys2Proof.Machine.execClrst s
  | .wrx k v => Sys2Proof.Machine.execWrx k v s
  | .wry k v => Sys2Proof.Machine.execWry k v s
  | .rdx k => Sys2Proof.Machine.execRdx k s
  | .rdy k => Sys2Proof.Machine.execRdy k s
  | .rdpix x y => Sys2Proof.Machine.execRdpix x y s
  | .rdreg n => Sys2Proof.Machine.execRdreg n s
  | .select => Sys2Proof.Machine.execSelect s
  | .stepd => Sys2Proof.Machine.execStepd s
  | .stepe => Sys2Proof.Machine.execStepe s

end Sys2Proof.Machine
end

