-- ==== Sys2Proof/Machine/Step.lean ====
section
/-! DEFINITION. One step: the next command word, decoded and performed to completion. -/

namespace Sys2Proof.Machine

/-- One command of the strict alternation (20_memory.md R63): the next word on the command channel is decoded and
performed; a word that is no command ends with `E_ILLEGAL` (60_exceptions.md R203); with no word on the channel the
block waits (70_reset_and_hazards.md R231). -/
def step (s : State) : Host.Outcome State Fault Refusal :=
  match nextCommand s with
  | none => .next (idle s)
  | some (w, t) =>
    match decode w with
    | .ok i => exec i t
    | .error _ => .next (illegalWord t)

/-- `s` with the word whose bits are `w` (as the opcode table numbers them) as the next word on the command channel,
where `step` takes it (log entry 3). -/
def State.withFetchWord (s : State) (nbits w : Nat) : State := placeCommand (tableWord nbits w) s

end Sys2Proof.Machine
end

