-- ==== Sys2Proof/Machine/RuleLoops.lean ====
section
/-! DEFINITION. The loops of 41_engine.md R161, R172 and R176 written as the rules write them, entry by entry and
pixel by pixel. The machine does not run them: statements compare it with them. -/

namespace Sys2Proof.Machine

/-- `for k in lo..hi`, in increasing order, empty when `lo > hi` (00_scope.md R3). -/
def forRange {σ : Type} (lo hi : Nat) (body : σ → Nat → σ) (start : σ) : σ :=
  (List.range' lo (hi + 1 - lo)).foldl body start

/-- `canvas[i,j] <- p` (00_scope.md R3). -/
def setPixel (c : Canvas) (i j : Nat) (p : Pixel) : Canvas := c.set j ((c.getD j []).set i p)

/-- The loop of 41_engine.md R161. -/
def rebalanceLoop (p : Ruler) (lo hi c r : Nat) : Ruler :=
  (forRange lo hi (fun q k =>
    let v := scale (entry q k) (distance k c) r
    let v := if k ≠ c ∧ v = 0 then 1 else v
    q.set k (BitVec.ofNat 24 v)) p).set c 0#24

/-- `canvas[ii,jj] <- per channel (s*alpha + canvas[ii,jj]*(256-alpha)) >> 8` (41_engine.md R176). -/
def blendAt (s : Pixel) (alpha ii jj : Nat) (c : Canvas) : Canvas :=
  let o := pixelOf c ii jj
  setPixel c ii jj
    { r := BitVec.ofNat 8 ((s.r.toNat * alpha + o.r.toNat * (256 - alpha)) >>> 8)
      g := BitVec.ofNat 8 ((s.g.toNat * alpha + o.g.toNat * (256 - alpha)) >>> 8)
      b := BitVec.ofNat 8 ((s.b.toNat * alpha + o.b.toNat * (256 - alpha)) >>> 8) }

/-- The two inner loops of 41_engine.md R176, over the region of one cross point. -/
def splatLoop (p : Splat) (c : Canvas) : Canvas :=
  forRange p.rows.lo p.rows.hi (fun c jj =>
    forRange p.cols.lo p.cols.hi (fun c ii =>
      if ((ii : Int) - p.ci) ^ 2 + ((jj : Int) - p.cj) ^ 2 ≥ (p.radius : Int) ^ 2 then c
      else
        let xy := fdiv (fadd (fdiv (f32 (entry p.xErr ii)) (f32 p.maxErr))
          (fdiv (f32 (entry p.yErr jj)) (f32 p.maxErr))) 2
        blendAt p.sample (256 - rne (fmul 256 xy)) ii jj c) c) c

/-- The sample line: 41_engine.md R164 in decode mode, R165 in encode mode. -/
def sampleLine (mode : Mode) (ci cj : Nat) (s : State) : Pixel × State :=
  match mode with
  | .decode =>
    ({ r := pktRead s s.pos.toNat, g := pktRead s (s.pos.toNat + 1), b := pktRead s (s.pos.toNat + 2) },
      { s with pos := s.pos + 3#32 })
  | .encode =>
    let p := tgtRead s ci cj
    let s := pktWrite s s.pos.toNat p.r
    let s := pktWrite s (s.pos.toNat + 1) p.g
    let s := pktWrite s (s.pos.toNat + 2) p.b
    (p, { s with pos := s.pos + 3#32, numpix := s.numpix + 1#32 })

/-- 41_engine.md R176 and R177, after the common checks, line by line. The last line counts the iteration, which is
the model's own (log entry 2). -/
def engineLoop (mode : Mode) (s : State) : State :=
  let (worstX, wx) := worst s.xErr s.w.toNat
  let (worstY, wy) := worst s.yErr s.h.toNat
  if worstX + worstY = 0 then { s with rsps := 0#64 :: s.rsps }
  else
    let axis := if worstX > worstY then Axis.col else Axis.row
    let c := if worstX > worstY then wx else wy
    let p := if worstX > worstY then s.xErr else s.yErr
    let nP := if worstX > worstY then s.w.toNat else s.h.toNat
    let q := if worstX > worstY then s.yErr else s.xErr
    let nQ := if worstX > worstY then s.h.toNat else s.w.toNat
    let r := s.radius.toNat
    let rng := expand p nP r c
    let m := entry p c
    let cross := (List.range nQ).filter fun k => entry q k == 0
    let n := cross.length
    if 0 < n ∧ s.pos.toNat + 3 * n > s.size.toNat then
      { s with status := s.status ||| 0x10#5, rsps := 0x0500000000000000#64 :: s.rsps }
    else
      let p' := rebalanceLoop p rng.lo rng.hi c r
      let s1 := if worstX > worstY then { s with xErr := p' } else { s with yErr := p' }
      let s2 := cross.foldl (fun t k =>
        let ci := if worstX > worstY then c else k
        let cj := if worstX > worstY then k else c
        let taken := sampleLine mode ci cj t
        let perp := expand q nQ r k
        let cols := if worstX > worstY then rng else perp
        let rows := if worstX > worstY then perp else rng
        { taken.2 with
          canvas := splatLoop
            { ci := ci, cj := cj, cols := cols, rows := rows, sample := taken.1
              xErr := t.xErr, yErr := t.yErr, maxErr := m, radius := r } taken.2.canvas }) s1
      let axisNumber := match axis with
        | .col => 1
        | .row => 0
      { s2 with
        epoch := s2.epoch + 1
        rsps := BitVec.ofNat 64 (m * 2 ^ 32 + c * 2 ^ 16 + axisNumber * 2 + 1) :: s2.rsps }

end Sys2Proof.Machine
end

