-- ==== Sys2Proof/Safety.lean ====
section
/-! DEFINITION. The terms the claims use: the invariant, safe runs, what a word at the command channel does, and the
state a command leaves when it succeeds or reports an error, written out. -/

namespace Sys2Proof.Machine

/-! ## The invariant -/

/-- The context store has the shape `OPENED`, `W` and `H` say: rulers of `W` and `H` entries and `H` rows of `W` pixels
while a context is open, nothing while none is (10_state.md R22, R23, R29, R31). -/
def contextShape (s : State) : Bool :=
  if s.opened then
    decide (1 ≤ s.w.toNat) && decide (s.w.toNat ≤ s.maxW.toNat) && decide (1 ≤ s.h.toNat) &&
      decide (s.h.toNat ≤ s.maxH.toNat) && decide (s.xErr.length = s.w.toNat) &&
      decide (s.yErr.length = s.h.toNat) && decide (s.canvas.length = s.h.toNat) &&
      s.canvas.all fun row => decide (row.length = s.w.toNat)
  else
    decide (s.w = 0#16) && decide (s.h = 0#16) && s.xErr.isEmpty && s.yErr.isEmpty && s.canvas.isEmpty

/-- What every reachable state meets: the context store has its shape, `RADIUS` is not 0 (10_state.md R25), the size
parameters are legal (00_scope.md R1), and the two host spaces are in canonical form. -/
abbrev Inv (s : State) : Prop :=
  contextShape s = true ∧ s.radius ≠ 0#8 ∧ s.maxW ≠ 0#16 ∧ s.maxH ≠ 0#16 ∧ pktWf s.pkt = true ∧ tgtWf s.tgt = true

/-! ## Runs -/

/-- `k` steps answer a next state: no fault and no refusal on the way. -/
def SafeRun (k : Nat) (s : State) : Prop := ∃ t, Host.Core.run Sys2Proof.core k s = .next t

/-- `t` is the state after one more command of the engine: `STEPD` for decode, `STEPE` for encode. -/
def engineInstr : Mode → Instr
  | .decode => .stepd
  | .encode => .stepe

/-- The states that engine commands of the given modes pass through, the last one last. -/
def engineRun : List Mode → State → List State
  | [], _ => []
  | m :: ms, s =>
    match exec (engineInstr m) s with
    | .next t => t :: engineRun ms t
    | .fault _ => []
    | .refused _ => []

/-- The state's last response has `CODE = 0` and `DONE = 1` (30_encoding.md R84, R88). -/
def lastDone (s : State) : Bool :=
  match s.rsps with
  | [] => false
  | r :: _ => r.extractLsb' 56 8 == 0#8 && r.extractLsb' 0 1 == 1#1

/-- How many entries of a ruler are not zero. -/
def nonzeroCount (p : Ruler) : Nat := p.countP fun v => v != 0#24

/-! ## Assembly -/

/-- The line assembles to one word, and that word decodes to the command (30_encoding.md R90). -/
def AssemblesTo (a : Asm) (i : Instr) : Prop := ∃ w, assemble a = some [w] ∧ decode w = .ok i

/-! ## What a word does -/

/-- A word on the command channel runs the command `i` (with the word taken off the channel). -/
def RunsWord (w : CmdWord) (i : Instr) : Prop :=
  ∀ (s : State) (rest : List CmdWord), s.cmds = w :: rest → step s = exec i { s with cmds := rest }

/-- The state after `E_ILLEGAL` (60_exceptions.md R201, R204). -/
def afterIllegal (s : State) : State :=
  { s with status := s.status ||| 0x01#5, rsps := 0x0100000000000000#64 :: s.rsps }

/-- The state after `E_NOT_OPEN` (60_exceptions.md R201, R205). -/
def afterNotOpen (s : State) : State :=
  { s with status := s.status ||| 0x02#5, rsps := 0x0200000000000000#64 :: s.rsps }

/-- The state after `E_BAD_ARG` (60_exceptions.md R201, R206). -/
def afterBadArg (s : State) : State :=
  { s with status := s.status ||| 0x04#5, rsps := 0x0300000000000000#64 :: s.rsps }

/-- The state after `E_RESOURCE` (60_exceptions.md R201, R207). -/
def afterResource (s : State) : State :=
  { s with status := s.status ||| 0x08#5, rsps := 0x0400000000000000#64 :: s.rsps }

/-- The state after `E_CAPACITY` (60_exceptions.md R201, R208). -/
def afterCapacity (s : State) : State :=
  { s with status := s.status ||| 0x10#5, rsps := 0x0500000000000000#64 :: s.rsps }

/-- The state after a response of `CODE = 0` whose whole word is `word`. -/
def afterResponse (word : RspWord) (s : State) : State := { s with rsps := word :: s.rsps }

/-- Every word with this `OP` and a bit of this mask set ends with `E_ILLEGAL`, whether a context is open or not
(30_encoding.md R83; 60_exceptions.md R204). -/
def IllegalWords (op : BitVec 8) (mask : BitVec 64) : Prop :=
  ∀ (s : State) (w : CmdWord) (rest : List CmdWord), s.cmds = w :: rest → w.extractLsb' 56 8 = op →
    w &&& mask ≠ 0#64 → step s = .next (afterIllegal { s with cmds := rest })

end Sys2Proof.Machine
end

