-- ==== Sys2Proof/Certificates/Slice0/Obligations.lean ====
section
/-! DEFINITION. The statements about the block, for the provers. Each docstring says which rule of the spec it
formalises, or that it is derived. -/

open Sys2Proof Sys2Proof.Machine

/-! ## Encoding -/

/-- Derived from 30_encoding.md R81, R85: every command decodes from its own word, with every operand at every value. -/
def Obligations.DecodeOfEncode : Prop := ∀ i : Instr, decode (encode i) = .ok i

/-- Derived from 30_encoding.md R83 ("No reserved bit is ignored"): a word that decodes is the word of its command. -/
def Obligations.EncodeOfDecode : Prop := ∀ (w : CmdWord) (i : Instr), decode w = .ok i → encode i = w

/-- 30_encoding.md R85: the 17 opcodes, their match and mask values and whether they need an open context; a word is the
command iff it matches the row, no two rows match one word, and every other opcode is reserved. -/
def Obligations.OpcodeTableDecides : Prop :=
  (∀ (w : CmdWord) (op : Op), w &&& op.matchMask = op.matchWord ↔ ∃ i, decode w = .ok i ∧ i.op = op) ∧
  (∀ (w : CmdWord) (a b : Op), w &&& a.matchMask = a.matchWord → w &&& b.matchMask = b.matchWord → a = b) ∧
  (∀ op : Op, op ∈ opTable) ∧
  (∀ w : CmdWord, 0x10 < (w.extractLsb' 56 8).toNat → ∀ i, decode w ≠ .ok i) ∧
  opTable.map (fun op => (op.matchWord, op.matchMask)) =
    [(0x0000000000000000#64, 0xFFFFFFFFFFFFFFFF#64), (0x0100000000000000#64, 0xFF00000000FFFFFF#64),
     (0x0200000000000000#64, 0xFFFFFFFFFFFFFFFF#64), (0x0300000000000000#64, 0xFFFFFFFFFFFFFF00#64),
     (0x0400000000000000#64, 0xFFFFFFFF00000000#64), (0x0500000000000000#64, 0xFFFFFFFF00000000#64),
     (0x0600000000000000#64, 0xFFFFFFFFFFFFFFFF#64), (0x0700000000000000#64, 0xFFFFFFFFFFFFFFFF#64),
     (0x0800000000000000#64, 0xFF0000FFFF000000#64), (0x0900000000000000#64, 0xFF0000FFFF000000#64),
     (0x0A00000000000000#64, 0xFF0000FFFFFFFFFF#64), (0x0B00000000000000#64, 0xFF0000FFFFFFFFFF#64),
     (0x0C00000000000000#64, 0xFF00000000FFFFFF#64), (0x0D00000000000000#64, 0xFFFFFFFFFFFFFF00#64),
     (0x0E00000000000000#64, 0xFFFFFFFFFFFFFFFF#64), (0x0F00000000000000#64, 0xFFFFFFFFFFFFFFFF#64),
     (0x1000000000000000#64, 0xFFFFFFFFFFFFFFFF#64)] ∧
  opTable.map Op.needsOpen =
    [false, false, false, false, false, false, false, false, true, true, true, true, true, false, true, true, true]

/-- 30_encoding.md R83, R86 and 60_exceptions.md R204: a word with a reserved opcode, or with an assigned opcode and a
reserved bit of its format set, ends with `E_ILLEGAL` and changes nothing but `STATUS`, in every state; every other word is one
command. -/
def Obligations.IllegalWordEndsWithEIllegal : Prop :=
  (∀ w : CmdWord, (∃ i, decode w = .ok i) ∨ 0x11 ≤ (w.extractLsb' 56 8).toNat ∨
    ∃ op : Op, w.extractLsb' 56 8 = op.code ∧ w &&& op.format.reservedMask ≠ 0#64) ∧
  ∀ (s : State) (w : CmdWord) (rest : List CmdWord), s.cmds = w :: rest →
    (0x11 ≤ (w.extractLsb' 56 8).toNat ∨
      ∃ op : Op, w.extractLsb' 56 8 = op.code ∧ w &&& op.format.reservedMask ≠ 0#64) →
    step s = .next (afterIllegal { s with cmds := rest })

/-- Derived from 30_encoding.md §5: its example words decode to the commands it names; the last two are illegal. A sanity
check on fixed words. -/
def Obligations.SpecExampleWordsDecode : Prop :=
  decode 0x0000000000000000#64 = .ok .nop ∧
  decode 0x0100050003000000#64 = .ok (.openCtx 5#16 3#16) ∧
  decode 0x0300000000000001#64 = .ok (.setrad 1#8) ∧
  decode 0x0500000000000030#64 = .ok (.setsize 48#32) ∧
  decode 0x0800000000000141#64 = .ok (.wrx 0#16 321#24) ∧
  decode 0x0900020000FFFFFF#64 = .ok (.wry 2#16 0xFFFFFF#24) ∧
  decode 0x0A00030000000000#64 = .ok (.rdx 3#16) ∧
  decode 0x0C00020001000000#64 = .ok (.rdpix 2#16 1#16) ∧
  decode 0x0D00000000000007#64 = .ok (.rdreg 7#8) ∧
  decode 0x1000000000000000#64 = .ok .stepe ∧
  decode 0x1100000000000000#64 = .error (.reservedOpcode 0x11#8) ∧
  decode 0x0000000000000001#64 = .error (.reservedBits .nop)

/-- 30_encoding.md R93: byte `k` of a word on a byte channel is `word[8k+7:8k]`; the eight bytes give the word back, and the
decoder reads the same command from them. -/
def Obligations.ByteChannelIsLittleEndian : Prop :=
  wordBytes 0x0100010001000000#64 = [0x00#8, 0x00#8, 0x00#8, 0x01#8, 0x00#8, 0x01#8, 0x00#8, 0x01#8] ∧
  ∀ w : BitVec 64,
    (∀ k, k < 8 → ∃ b, (wordBytes w)[k]? = some b ∧ b.toNat = w.toNat / 2 ^ (8 * k) % 256) ∧
    (wordBytes w).length = 8 ∧ wordOfBytes (wordBytes w) = some w ∧ decodeBytes (wordBytes w) = decode w

/-- 30_encoding.md R91, derived: `LOADX` and `LOADY` assemble to one `WRX` or `WRY` word per value, at the indices 0, 1, ... in
that order. -/
def Obligations.LoadRulersExpand : Prop :=
  ∀ vs : List Nat, vs ≠ [] → vs.length ≤ 65536 → (∀ v ∈ vs, v < 2 ^ 24) →
    assemble (.loadx vs) = some (vs.mapIdx fun k v => encode (.wrx (BitVec.ofNat 16 k) (BitVec.ofNat 24 v))) ∧
    assemble (.loady vs) = some (vs.mapIdx fun k v => encode (.wry (BitVec.ofNat 16 k) (BitVec.ofNat 24 v)))

/-- 30_encoding.md R90 and R91, derived: the assembler refuses an operand that does not fit its field, in every line that has one;
the words of a line decode to the line's commands; and a line whose operands fit is accepted and is the one command with the
line's own numbers, each in the operand that the syntax names. -/
def Obligations.AssembledNumbersAreTheOperands : Prop :=
  (∀ a v : Nat, (65536 ≤ a ∨ 65536 ≤ v → assemble (.openCtx a v) = none ∧ assemble (.rdpix a v) = none) ∧
    (65536 ≤ a ∨ 2 ^ 24 ≤ v → assemble (.wrx a v) = none ∧ assemble (.wry a v) = none) ∧
    (65536 ≤ a → assemble (.rdx a) = none ∧ assemble (.rdy a) = none) ∧
    (256 ≤ v → assemble (.setrad v) = none ∧ assemble (.rdreg v) = none) ∧
    (2 ^ 32 ≤ v → assemble (.setpos v) = none ∧ assemble (.setsize v) = none)) ∧
  (∀ vs : List Nat, (∃ v ∈ vs, 2 ^ 24 ≤ v) ∨ 65536 < vs.length →
    assemble (.loadx vs) = none ∧ assemble (.loady vs) = none) ∧
  (∀ a ws, assemble a = some ws → ws.map decode = a.commands.map .ok) ∧
  (∀ x y : BitVec 16, AssemblesTo (.openCtx x.toNat y.toNat) (.openCtx x y) ∧
    AssemblesTo (.rdpix x.toNat y.toNat) (.rdpix x y)) ∧
  (∀ (k : BitVec 16) (v : BitVec 24), AssemblesTo (.wrx k.toNat v.toNat) (.wrx k v) ∧
    AssemblesTo (.wry k.toNat v.toNat) (.wry k v)) ∧
  (∀ k : BitVec 16, AssemblesTo (.rdx k.toNat) (.rdx k) ∧ AssemblesTo (.rdy k.toNat) (.rdy k)) ∧
  (∀ n : BitVec 8, AssemblesTo (.setrad n.toNat) (.setrad n) ∧ AssemblesTo (.rdreg n.toNat) (.rdreg n)) ∧
  (∀ v : BitVec 32, AssemblesTo (.setpos v.toNat) (.setpos v) ∧ AssemblesTo (.setsize v.toNat) (.setsize v)) ∧
  (AssemblesTo (.rdregName .status) (.rdreg 0#8) ∧ AssemblesTo (.rdregName .opened) (.rdreg 1#8) ∧
    AssemblesTo (.rdregName .w) (.rdreg 2#8) ∧ AssemblesTo (.rdregName .h) (.rdreg 3#8) ∧
    AssemblesTo (.rdregName .radius) (.rdreg 4#8) ∧ AssemblesTo (.rdregName .pos) (.rdreg 5#8) ∧
    AssemblesTo (.rdregName .size) (.rdreg 6#8) ∧ AssemblesTo (.rdregName .numpix) (.rdreg 7#8) ∧
    AssemblesTo (.rdregName .maxW) (.rdreg 8#8) ∧ AssemblesTo (.rdregName .maxH) (.rdreg 9#8)) ∧
  (AssemblesTo .nop .nop ∧ AssemblesTo .closeCtx .closeCtx ∧ AssemblesTo .clrnp .clrnp ∧ AssemblesTo .clrst .clrst ∧
    AssemblesTo .select .select ∧ AssemblesTo .stepd .stepd ∧ AssemblesTo .stepe .stepe)

/-! ## The step -/

/-- The step runs the decoded command, with its word taken off the command channel; `withFetchWord` puts a word where the step
takes it. Derived from 20_memory.md R63 and 60_exceptions.md R203. -/
def Obligations.StepRunsTheDecodedCommand : Prop :=
  (∀ (s : State) (w : CmdWord) (rest : List CmdWord) (i : Instr), s.cmds = w :: rest → decode w = .ok i →
    step s = exec i { s with cmds := rest }) ∧
  (∀ (s : State) (n : Nat) (i : Instr), n < 2 ^ 64 → decodeTableWord 64 n = some i →
    step (s.withFetchWord 64 n) = exec i s)

/-- No run of the machine, from any state, ends in a fault or a refusal. Derived from 70_reset_and_hazards.md R232, R239
("Every command ends"). -/
def Obligations.EveryRunIsSafe : Prop := ∀ (k : Nat) (s : State), SafeRun k s

/-- Every command word gets exactly one response word, whose code is 0 to 5, and whose data is 0 where the code is not.
Derived from 30_encoding.md R84 and 60_exceptions.md R202. -/
def Obligations.OneResponsePerCommand : Prop :=
  ∀ (s : State) (w : CmdWord) (rest : List CmdWord), s.cmds = w :: rest →
    ∃ t r, step s = .next t ∧ t.rsps = r :: s.rsps ∧ t.cmds = rest ∧ (r.extractLsb' 56 8).toNat ≤ 5 ∧
      (r.extractLsb' 56 8 ≠ 0#8 → r.extractLsb' 0 56 = 0#56)

/-- With no command word the block holds its state, however long it waits. Derived from 60_exceptions.md R216 and
70_reset_and_hazards.md R231; that a step without a word is an idle step is the model's choice (log entry 3). -/
def Obligations.BlockWaitsForACommand : Prop :=
  ∀ (k : Nat) (s : State), s.cmds = [] → Host.Core.run Sys2Proof.core k s = .next s

/-! ## Reset and the invariant -/

/-- What reset leaves. Derived from 70_reset_and_hazards.md R230: the registers are the table's values; that the canvas and
rulers without a value are empty lists is the model's choice (log entry 4), and the value of `MAX_W` and `MAX_H` is not
stated. -/
def Obligations.ResetLeavesTheTableValues : Prop :=
  State.reset.opened = false ∧ State.reset.w = 0#16 ∧ State.reset.h = 0#16 ∧ State.reset.radius = 5#8 ∧
  State.reset.pos = 0#32 ∧ State.reset.size = 0#32 ∧ State.reset.numpix = 0#32 ∧ State.reset.status = 0#5 ∧
  State.reset.canvas = [] ∧ State.reset.xErr = [] ∧ State.reset.yErr = []

/-- The state after reset meets the invariant. Derived from 70_reset_and_hazards.md R230, 10_state.md R22; that reset lists no
packet byte and no target pixel is the model's choice (log entry 10). -/
def Obligations.ResetMeetsTheInvariant : Prop := Inv State.reset

/-- Every step keeps the invariant: the context store keeps the shape that `OPENED`, `W` and `H` say, `RADIUS` is never 0, the
size parameters stay legal and the host spaces stay in canonical form. Derived from 10_state.md R22 to R25, R29, R31. -/
def Obligations.StepKeepsTheInvariant : Prop := ∀ s t : State, Inv s → step s = .next t → Inv t

/-- Derived from 70_reset_and_hazards.md R230: `CLOSE`, `CLRST`, `SETRAD 5`, `SETPOS 0`, `SETSIZE 0`, `CLRNP` bring the block from
any state to the registers and the (absent) context store of reset. -/
def Obligations.CloseSequenceReachesReset : Prop :=
  ∀ s : State, s.cmds = [.closeCtx, .clrst, .setrad 5#8, .setpos 0#32, .setsize 0#32, .clrnp].map encode →
    ∃ t, Host.Core.run Sys2Proof.core 6 s = .next t ∧
      t = { State.reset with
        maxW := s.maxW, maxH := s.maxH, pkt := s.pkt, tgt := s.tgt, epoch := s.epoch
        rsps := List.replicate 6 0#64 ++ s.rsps }

/-! ## The commands of 40_control.md -/

/-- 40_control.md R111. -/
def Obligations.NopCommand : Prop :=
  RunsWord 0x0000000000000000#64 .nop ∧ IllegalWords 0x00#8 0x00FFFFFFFFFFFFFF#64 ∧
  ∀ s : State, exec .nop s = .next (afterResponse 0#64 s)

/-- 40_control.md R112: its word, its two errors in their order, and the new context with every pixel 0x7F and every ruler entry
0, in which an engine command has nothing to refine. -/
def Obligations.OpenCommand : Prop :=
  (∀ a b : BitVec 16,
    RunsWord (0x0100000000000000#64 ||| (a.setWidth 64 <<< 40) ||| (b.setWidth 64 <<< 24)) (.openCtx a b)) ∧
  IllegalWords 0x01#8 0x0000000000FFFFFF#64 ∧
  ∀ (a b : BitVec 16) (s : State),
    (a = 0#16 ∨ b = 0#16 → exec (.openCtx a b) s = .next (afterBadArg s)) ∧
    (a ≠ 0#16 → b ≠ 0#16 → s.maxW.toNat < a.toNat ∨ s.maxH.toNat < b.toNat →
      exec (.openCtx a b) s = .next (afterResource s)) ∧
    (a ≠ 0#16 → b ≠ 0#16 → a.toNat ≤ s.maxW.toNat → b.toNat ≤ s.maxH.toNat →
      ∃ t, exec (.openCtx a b) s = .next t ∧
        (∀ i j, i < a.toNat → j < b.toNat → ∃ row, t.canvas[j]? = some row ∧ row[i]? = some ⟨0x7F#8, 0x7F#8, 0x7F#8⟩) ∧
        t.canvas.length = b.toNat ∧ (∀ row ∈ t.canvas, row.length = a.toNat) ∧
        (∀ i, i < a.toNat → t.xErr[i]? = some 0#24) ∧ t.xErr.length = a.toNat ∧
        (∀ j, j < b.toNat → t.yErr[j]? = some 0#24) ∧ t.yErr.length = b.toNat ∧
        (∀ mode : Mode, exec (engineInstr mode) t = .next (afterResponse 0#64 t)) ∧
        t = { s with
          opened := true, w := a, h := b, radius := 5#8, pos := 0#32, size := 0#32, numpix := 0#32
          canvas := t.canvas, xErr := t.xErr, yErr := t.yErr, rsps := 0#64 :: s.rsps })

/-- 40_control.md R113. That the canvas and rulers without a value are empty lists is the model's choice (log entry 4). -/
def Obligations.CloseCommand : Prop :=
  RunsWord 0x0200000000000000#64 .closeCtx ∧ IllegalWords 0x02#8 0x00FFFFFFFFFFFFFF#64 ∧
  ∀ s : State, exec .closeCtx s =
    .next { s with opened := false, w := 0#16, h := 0#16, canvas := [], xErr := [], yErr := [], rsps := 0#64 :: s.rsps }

/-- 40_control.md R114. -/
def Obligations.SetradCommand : Prop :=
  (∀ r : BitVec 8, RunsWord (0x0300000000000000#64 ||| r.setWidth 64) (.setrad r)) ∧
  IllegalWords 0x03#8 0x00FFFFFFFFFFFF00#64 ∧
  ∀ (r : BitVec 8) (s : State),
    (r = 0#8 → exec (.setrad r) s = .next (afterBadArg s)) ∧
    (r ≠ 0#8 → exec (.setrad r) s = .next { s with radius := r, rsps := 0#64 :: s.rsps })

/-- 40_control.md R115, R116. -/
def Obligations.SetposAndSetsizeCommands : Prop :=
  (∀ v : BitVec 32, RunsWord (0x0400000000000000#64 ||| v.setWidth 64) (.setpos v)) ∧
  (∀ v : BitVec 32, RunsWord (0x0500000000000000#64 ||| v.setWidth 64) (.setsize v)) ∧
  IllegalWords 0x04#8 0x00FFFFFF00000000#64 ∧ IllegalWords 0x05#8 0x00FFFFFF00000000#64 ∧
  ∀ (v : BitVec 32) (s : State),
    exec (.setpos v) s = .next { s with pos := v, rsps := 0#64 :: s.rsps } ∧
    exec (.setsize v) s = .next { s with size := v, rsps := 0#64 :: s.rsps }

/-- 40_control.md R117, R118. -/
def Obligations.ClrnpAndClrstCommands : Prop :=
  RunsWord 0x0600000000000000#64 .clrnp ∧ RunsWord 0x0700000000000000#64 .clrst ∧
  IllegalWords 0x06#8 0x00FFFFFFFFFFFFFF#64 ∧ IllegalWords 0x07#8 0x00FFFFFFFFFFFFFF#64 ∧
  ∀ s : State,
    exec .clrnp s = .next { s with numpix := 0#32, rsps := 0#64 :: s.rsps } ∧
    exec .clrst s = .next { s with status := 0#5, rsps := 0#64 :: s.rsps }

/-- 40_control.md R119, R120: the entry at the index becomes the value, every other entry and everything else stays. -/
def Obligations.WrxAndWryCommands : Prop :=
  (∀ (k : BitVec 16) (v : BitVec 24),
    RunsWord (0x0800000000000000#64 ||| (k.setWidth 64 <<< 40) ||| v.setWidth 64) (.wrx k v) ∧
    RunsWord (0x0900000000000000#64 ||| (k.setWidth 64 <<< 40) ||| v.setWidth 64) (.wry k v)) ∧
  IllegalWords 0x08#8 0x000000FFFF000000#64 ∧ IllegalWords 0x09#8 0x000000FFFF000000#64 ∧
  ∀ (k : BitVec 16) (v : BitVec 24) (s : State),
    (s.opened = false → exec (.wrx k v) s = .next (afterNotOpen s) ∧ exec (.wry k v) s = .next (afterNotOpen s)) ∧
    (s.opened = true → s.w.toNat ≤ k.toNat → exec (.wrx k v) s = .next (afterBadArg s)) ∧
    (s.opened = true → s.h.toNat ≤ k.toNat → exec (.wry k v) s = .next (afterBadArg s)) ∧
    (s.opened = true → k.toNat < s.w.toNat → s.xErr.length = s.w.toNat →
      ∃ t, exec (.wrx k v) s = .next t ∧ t.xErr[k.toNat]? = some v ∧
        (∀ n, n ≠ k.toNat → t.xErr[n]? = s.xErr[n]?) ∧ t = { s with xErr := t.xErr, rsps := 0#64 :: s.rsps }) ∧
    (s.opened = true → k.toNat < s.h.toNat → s.yErr.length = s.h.toNat →
      ∃ t, exec (.wry k v) s = .next t ∧ t.yErr[k.toNat]? = some v ∧
        (∀ n, n ≠ k.toNat → t.yErr[n]? = s.yErr[n]?) ∧ t = { s with yErr := t.yErr, rsps := 0#64 :: s.rsps })

/-- 40_control.md R121, R122: the response is the entry, zero-extended, and nothing else changes. -/
def Obligations.RdxAndRdyCommands : Prop :=
  (∀ k : BitVec 16,
    RunsWord (0x0A00000000000000#64 ||| (k.setWidth 64 <<< 40)) (.rdx k) ∧
    RunsWord (0x0B00000000000000#64 ||| (k.setWidth 64 <<< 40)) (.rdy k)) ∧
  IllegalWords 0x0A#8 0x000000FFFFFFFFFF#64 ∧ IllegalWords 0x0B#8 0x000000FFFFFFFFFF#64 ∧
  ∀ (k : BitVec 16) (v : BitVec 24) (s : State),
    (s.opened = false → exec (.rdx k) s = .next (afterNotOpen s) ∧ exec (.rdy k) s = .next (afterNotOpen s)) ∧
    (s.opened = true → s.w.toNat ≤ k.toNat → exec (.rdx k) s = .next (afterBadArg s)) ∧
    (s.opened = true → s.h.toNat ≤ k.toNat → exec (.rdy k) s = .next (afterBadArg s)) ∧
    (s.opened = true → k.toNat < s.w.toNat → s.xErr[k.toNat]? = some v →
      exec (.rdx k) s = .next (afterResponse (v.setWidth 64) s)) ∧
    (s.opened = true → k.toNat < s.h.toNat → s.yErr[k.toNat]? = some v →
      exec (.rdy k) s = .next (afterResponse (v.setWidth 64) s))

/-- 40_control.md R123: the response is the pixel with R in the low byte and the padding byte 255, and nothing else changes. -/
def Obligations.RdpixCommand : Prop :=
  (∀ x y : BitVec 16,
    RunsWord (0x0C00000000000000#64 ||| (x.setWidth 64 <<< 40) ||| (y.setWidth 64 <<< 24)) (.rdpix x y)) ∧
  IllegalWords 0x0C#8 0x0000000000FFFFFF#64 ∧
  ∀ (x y : BitVec 16) (row : List Pixel) (p : Pixel) (s : State),
    (s.opened = false → exec (.rdpix x y) s = .next (afterNotOpen s)) ∧
    (s.opened = true → s.w.toNat ≤ x.toNat ∨ s.h.toNat ≤ y.toNat → exec (.rdpix x y) s = .next (afterBadArg s)) ∧
    (s.opened = true → x.toNat < s.w.toNat → y.toNat < s.h.toNat → s.canvas[y.toNat]? = some row →
      row[x.toNat]? = some p →
      exec (.rdpix x y) s =
        .next (afterResponse
          (0x00000000FF000000#64 ||| (p.b.setWidth 64 <<< 16) ||| (p.g.setWidth 64 <<< 8) ||| p.r.setWidth 64) s))

/-- 40_control.md R124: each register by its number, zero-extended, with or without an open context; a number above 9 is
`E_BAD_ARG`. -/
def Obligations.RdregCommand : Prop :=
  (∀ n : BitVec 8, RunsWord (0x0D00000000000000#64 ||| n.setWidth 64) (.rdreg n)) ∧
  IllegalWords 0x0D#8 0x00FFFFFFFFFFFF00#64 ∧
  ∀ s : State,
    exec (.rdreg 0#8) s = .next (afterResponse (s.status.setWidth 64) s) ∧
    exec (.rdreg 1#8) s = .next (afterResponse (if s.opened then 1#64 else 0#64) s) ∧
    exec (.rdreg 2#8) s = .next (afterResponse (s.w.setWidth 64) s) ∧
    exec (.rdreg 3#8) s = .next (afterResponse (s.h.setWidth 64) s) ∧
    exec (.rdreg 4#8) s = .next (afterResponse (s.radius.setWidth 64) s) ∧
    exec (.rdreg 5#8) s = .next (afterResponse (s.pos.setWidth 64) s) ∧
    exec (.rdreg 6#8) s = .next (afterResponse (s.size.setWidth 64) s) ∧
    exec (.rdreg 7#8) s = .next (afterResponse (s.numpix.setWidth 64) s) ∧
    exec (.rdreg 8#8) s = .next (afterResponse (s.maxW.setWidth 64) s) ∧
    exec (.rdreg 9#8) s = .next (afterResponse (s.maxH.setWidth 64) s) ∧
    ∀ n : BitVec 8, 9 < n.toNat → exec (.rdreg n) s = .next (afterBadArg s)

/-! ## The engine's commands -/

/-- 41_engine.md R154: its word, its errors, and its response in the layout of 30_encoding.md R88; nothing else changes. The response
is that of an engine command from the same state, unless that one fails its capacity check. -/
def Obligations.SelectCommand : Prop :=
  RunsWord 0x0E00000000000000#64 .select ∧ IllegalWords 0x0E#8 0x00FFFFFFFFFFFFFF#64 ∧
  ∀ s : State,
    (s.opened = false → exec .select s = .next (afterNotOpen s)) ∧
    (s.opened = true → selection s = none → exec .select s = .next (afterResponse 0#64 s)) ∧
    (∀ sel, s.opened = true → selection s = some sel →
      exec .select s =
        .next (afterResponse
          (BitVec.ofNat 64 (sel.maxErr * 2 ^ 32 + sel.pivot * 2 ^ 16 + (if sel.axis = .col then 2 else 0) + 1)) s)) ∧
    (s.opened = true → ∀ mode : Mode,
      ∃ t u, exec (engineInstr mode) s = .next t ∧ exec .select s = .next u ∧
        (t.rsps = u.rsps ∨ t.rsps = 0x0500000000000000#64 :: s.rsps))

/-- 41_engine.md R176: its word, its errors, and its effect as the rule's own loops. That a byte the host does not hold reads
as a free value, and the count of iterations it is taken at, are the model's choice (log entry 2). -/
def Obligations.StepdCommand : Prop :=
  RunsWord 0x0F00000000000000#64 .stepd ∧ IllegalWords 0x0F#8 0x00FFFFFFFFFFFFFF#64 ∧
  ∀ s : State,
    (s.opened = false → exec .stepd s = .next (afterNotOpen s)) ∧
    (s.opened = true → exec .stepd s = .next (engineLoop .decode s))

/-- 41_engine.md R177, with R165 for its sample line: its word, its errors, and its effect as the rule's own loops. That a pixel
the host does not hold reads as a free value, and the count of iterations it is taken at (log entry 2), and that a written byte
is held where the host held none (log entry 11), are the model's choice. -/
def Obligations.StepeCommand : Prop :=
  RunsWord 0x1000000000000000#64 .stepe ∧ IllegalWords 0x10#8 0x00FFFFFFFFFFFFFF#64 ∧
  ∀ s : State,
    (s.opened = false → exec .stepe s = .next (afterNotOpen s)) ∧
    (s.opened = true → exec .stepe s = .next (engineLoop .encode s))

/-! ## Errors, registers and who writes them -/

/-- 60_exceptions.md R205: with no context open, exactly the commands that need one end with `E_NOT_OPEN`. -/
def Obligations.NotOpenCommands : Prop :=
  ∀ (i : Instr) (s : State), s.opened = false →
    (i ∈ [Instr.select, .stepd, .stepe] ∨ (∃ k v, i = .wrx k v ∨ i = .wry k v) ∨ (∃ k, i = .rdx k ∨ i = .rdy k) ∨
      (∃ x y, i = .rdpix x y) → exec i s = .next (afterNotOpen s)) ∧
    (i ∈ [Instr.nop, .closeCtx, .clrnp, .clrst] ∨ (∃ a b, i = .openCtx a b) ∨ (∃ r, i = .setrad r) ∨
      (∃ v, i = .setpos v ∨ i = .setsize v) ∨ (∃ n, i = .rdreg n) →
      ∃ t r, exec i s = .next t ∧ t.rsps = r :: s.rsps ∧ r.extractLsb' 56 8 ≠ 2#8)

/-- 60_exceptions.md R201: a response whose code `e` is not 0 means that `STATUS` has the bit `1 << (e - 1)` set as well, the
response is `e` with `DATA = 0`, and nothing else changed. -/
def Obligations.ErrorChangesStatusOnly : Prop :=
  ∀ (i : Instr) (s t : State) (r : RspWord), exec i s = .next t → t.rsps = r :: s.rsps → r.extractLsb' 56 8 ≠ 0#8 →
    ∃ e, 1 ≤ e ∧ e ≤ 5 ∧
      t = { s with
        status := s.status ||| (1#5 <<< (e - 1))
        rsps := BitVec.ofNat 64 (e * 2 ^ 56) :: s.rsps }

/-- Derived from 10_state.md R27 and 60_exceptions.md R211: every step but a `CLRST` keeps every bit of `STATUS` that is set. -/
def Obligations.StatusBitsAreSticky : Prop :=
  ∀ s t : State, step s = .next t → (∀ w rest, s.cmds = w :: rest → decode w ≠ .ok .clrst) →
    s.status &&& t.status = s.status

/-- Derived from 10_state.md R22 and R35: a register, a ruler or a host space that a command's row does not name among its
writes keeps its value; `STATUS` is kept by every command but `CLRST` whose response is no error. -/
def Obligations.RegistersKeepTheirWriters : Prop :=
  ∀ (i : Instr) (s t : State), exec i s = .next t →
    t.maxW = s.maxW ∧ t.maxH = s.maxH ∧ t.tgt = s.tgt ∧ t.cmds = s.cmds ∧
    (i.op ≠ .clrst → ∀ r, t.rsps = r :: s.rsps → r.extractLsb' 56 8 = 0#8 → t.status = s.status) ∧
    (i.op ∉ [Op.openCtx, .closeCtx] → t.opened = s.opened ∧ t.w = s.w ∧ t.h = s.h) ∧
    (i.op ∉ [Op.openCtx, .setrad] → t.radius = s.radius) ∧
    (i.op ∉ [Op.openCtx, .setpos, .stepd, .stepe] → t.pos = s.pos) ∧
    (i.op ∉ [Op.openCtx, .setsize] → t.size = s.size) ∧
    (i.op ∉ [Op.openCtx, .clrnp, .stepe] → t.numpix = s.numpix) ∧
    (i.op ∉ [Op.openCtx, .closeCtx, .wrx, .stepd, .stepe] → t.xErr = s.xErr) ∧
    (i.op ∉ [Op.openCtx, .closeCtx, .wry, .stepd, .stepe] → t.yErr = s.yErr) ∧
    (i.op ≠ .stepe → t.pkt = s.pkt)

/-- Derived from 41_engine.md R182 and 40_control.md R113: only `OPEN`, `CLOSE` (which leaves no canvas) and the engine's
iterations change the canvas; a step that performs no command changes it neither. -/
def Obligations.OnlyOpenCloseAndEngineWriteTheCanvas : Prop :=
  ∀ s t : State, step s = .next t →
    (∀ w rest i, s.cmds = w :: rest → decode w = .ok i → i.op ∉ [Op.openCtx, .closeCtx, .stepd, .stepe]) →
    t.canvas = s.canvas

/-- Derived from 20_memory.md R53: a packet byte that was written reads back, every other address reads as before, and the
canonical form is kept. That it reads back where the host held no byte is the model's choice (log entry 11). -/
def Obligations.PacketReadAfterWrite : Prop :=
  ∀ (s : State) (a : Nat) (v : Byte),
    pktRead (pktWrite s a v) a = v ∧
    (∀ b, b ≠ a → cellAt (pktWrite s a v).pkt b = cellAt s.pkt b ∧ pktRead (pktWrite s a v) b = pktRead s b) ∧
    (pktWf s.pkt = true → a < 2 ^ 32 → pktWf (pktWrite s a v).pkt = true)

/-! ## The error_ruler_selector -/

/-- 41_engine.md R151: the maximum of the first `n` entries and the lowest index that holds it, and `(0, 0)` for an all-zero
ruler. -/
def Obligations.WorstIsTheFirstMaximum : Prop :=
  ∀ (p : Ruler) (n : Nat),
    (∀ k, k < n → entry p k ≤ (worst p n).1) ∧
    ((∃ k, k < n ∧ entry p k ≠ 0) →
      (worst p n).2 < n ∧ entry p (worst p n).2 = (worst p n).1 ∧
        ∀ k, k < (worst p n).2 → entry p k < (worst p n).1) ∧
    ((∀ k, k < n → entry p k = 0) → worst p n = (0, 0))

/-- 41_engine.md R152 and R155: nothing is selected exactly when both rulers are all zero; a column is the pivot when its
maximum is above every row's, else a row is; the pivot is the first index of the maximum, and `M` is at least 1 and at least every
entry of both rulers. -/
def Obligations.SelectionChoosesTheAxis : Prop :=
  ∀ s : State,
    (selection s = none ↔
      (∀ k, k < s.w.toNat → entry s.xErr k = 0) ∧ ∀ k, k < s.h.toNat → entry s.yErr k = 0) ∧
    ∀ sel, selection s = some sel →
      1 ≤ sel.maxErr ∧ (∀ k, k < s.w.toNat → entry s.xErr k ≤ sel.maxErr) ∧
      (∀ k, k < s.h.toNat → entry s.yErr k ≤ sel.maxErr) ∧
      (sel.axis = .col →
        sel.pivot < s.w.toNat ∧ entry s.xErr sel.pivot = sel.maxErr ∧
        (∀ k, k < sel.pivot → entry s.xErr k < sel.maxErr) ∧ (∀ k, k < s.h.toNat → entry s.yErr k < sel.maxErr) ∧
        pivotRuler s sel.axis = s.xErr ∧ pivotLength s sel.axis = s.w.toNat ∧
        perpRuler s sel.axis = s.yErr ∧ perpLength s sel.axis = s.h.toNat) ∧
      (sel.axis = .row →
        sel.pivot < s.h.toNat ∧ entry s.yErr sel.pivot = sel.maxErr ∧
        (∀ k, k < sel.pivot → entry s.yErr k < sel.maxErr) ∧
        pivotRuler s sel.axis = s.yErr ∧ pivotLength s sel.axis = s.h.toNat ∧
        perpRuler s sel.axis = s.xErr ∧ perpLength s sel.axis = s.w.toNat)

/-! ## The ruler_update_engine -/

/-- 41_engine.md R156: the range lies around `c` within the radius and the ruler, holds no zero entry but perhaps at `c`, and ends
short of the radius and the edge only before a zero entry. -/
def Obligations.ExpandIsBoundedByZeros : Prop :=
  ∀ (p : Ruler) (n r c : Nat), c < n →
    c - r ≤ (expand p n r c).lo ∧ (expand p n r c).lo ≤ c ∧ c ≤ (expand p n r c).hi ∧
    (expand p n r c).hi ≤ min (n - 1) (c + r) ∧
    (∀ k, (expand p n r c).lo ≤ k → k ≤ (expand p n r c).hi → k ≠ c → entry p k ≠ 0) ∧
    (0 < (expand p n r c).lo → c - (expand p n r c).lo < r → entry p ((expand p n r c).lo - 1) = 0) ∧
    ((expand p n r c).hi < n - 1 → (expand p n r c).hi - c < r → entry p ((expand p n r c).hi + 1) = 0)

/-- Derived from 41_engine.md R159: the cross lines are the exact lines, each once, in increasing order. -/
def Obligations.CrossLinesAreTheExactLines : Prop :=
  ∀ (q : Ruler) (n : Nat),
    (∀ k, k ∈ crossLines q n ↔ k < n ∧ entry q k = 0) ∧ (crossLines q n).Pairwise fun a b => a < b

/-- 60_exceptions.md R208, with the check of 41_engine.md R159: an iteration with `N > 0` cross lines and `POS + 3N > SIZE` ends with
`E_CAPACITY`; one with no cross line, or with room, is performed. -/
def Obligations.CapacityCheckDecides : Prop :=
  ∀ (mode : Mode) (s : State) (sel : Selection), s.opened = true → selection s = some sel →
    let q := if sel.axis = .col then s.yErr else s.xErr
    let nQ := if sel.axis = .col then s.h.toNat else s.w.toNat
    let n := (List.range nQ).countP fun k => entry q k == 0
    (0 < n → s.size.toNat < s.pos.toNat + 3 * n → exec (engineInstr mode) s = .next (afterCapacity s)) ∧
    (n = 0 ∨ s.pos.toNat + 3 * n ≤ s.size.toNat →
      ∃ t, exec (engineInstr mode) s = .next t ∧ t.status = s.status ∧ lastDone t = true)

/-- 41_engine.md R153: with both rulers all zero an engine command changes nothing and responds 0, and so does `SELECT`. -/
def Obligations.NothingToRefineChangesNothing : Prop :=
  ∀ s : State, s.opened = true → (∀ k, k < s.w.toNat → entry s.xErr k = 0) → (∀ k, k < s.h.toNat → entry s.yErr k = 0) →
    exec .stepd s = .next (afterResponse 0#64 s) ∧ exec .stepe s = .next (afterResponse 0#64 s) ∧
    exec .select s = .next (afterResponse 0#64 s)

/-- Derived from 41_engine.md R160 and R162: scaling gives 0 at distance 0, the entry itself at distance `R`, and never more than
the entry. -/
def Obligations.ScaleNeverGrowsAnEntry : Prop :=
  ∀ x d r : Nat, x < 2 ^ 24 → 1 ≤ r → r ≤ 255 → d ≤ r → scale x 0 r = 0 ∧ scale x r r = x ∧ scale x d r ≤ x

/-- 41_engine.md R161: rebalancing is the rule's loop, for every ruler, range and pivot; it leaves the entries outside the range
alone, and in an iteration it writes the pivot ruler and nothing else. -/
def Obligations.RebalanceIsTheRuleLoop : Prop :=
  (∀ (p : Ruler) (lo hi c r : Nat),
    rebalance p { lo := lo, hi := hi } c r = rebalanceLoop p lo hi c r ∧
    ∀ k, k ≠ c → (k < lo ∨ hi < k) → (rebalanceLoop p lo hi c r)[k]? = p[k]?) ∧
  ∀ (s : State) (sel : Selection),
    let rng := pivotRange s sel
    (sel.axis = .col →
      rebalanced s sel = { s with xErr := rebalanceLoop s.xErr rng.lo rng.hi sel.pivot s.radius.toNat }) ∧
    (sel.axis = .row →
      rebalanced s sel = { s with yErr := rebalanceLoop s.yErr rng.lo rng.hi sel.pivot s.radius.toNat })

/-- 41_engine.md R162: after rebalancing, an entry of the pivot range is at least 1 and at most its old value, and equal to it at
distance `R`; the pivot is 0; every other entry is unchanged. -/
def Obligations.RebalanceKeepsEntriesBounded : Prop :=
  ∀ (p : Ruler) (r c : Nat), r ≤ 255 → c < p.length →
    let rng := expand p p.length r c
    let p' := rebalance p rng c r
    p'.length = p.length ∧ entry p' c = 0 ∧
    (∀ k, rng.lo ≤ k → k ≤ rng.hi → k ≠ c →
      1 ≤ entry p' k ∧ entry p' k ≤ entry p k ∧ (distance k c = r → entry p' k = entry p k)) ∧
    ∀ k, k ≠ c → (k < rng.lo ∨ rng.hi < k) → p'[k]? = p[k]?

/-! ## Binary32 -/

/-- Derived from 00_scope.md R5: `rne(q)` is an integer nearest to `q`, and the even one when two are. -/
def Obligations.RneIsNearestTiesToEven : Prop :=
  ∀ q : Rat, 0 ≤ q →
    |(rne q : Rat) - q| ≤ 1 / 2 ∧ (|(rne q : Rat) - q| = 1 / 2 → rne q % 2 = 0)

/-- Derived from 00_scope.md R4: `rnd` is `u * rne(q / u)` with `u = 2^(e-23)` and `e = floor(log2 q)` for `q > 0`, 0 for 0, and odd; and
it keeps the order. R4 gives the formula in the normal range; that it stands for every exponent is the model's choice (log
entry 6). -/
def Obligations.RndFollowsItsFormula : Prop :=
  rnd 0 = 0 ∧ (∀ q : Rat, rnd (-q) = -(rnd q)) ∧
  (∀ (q : Rat) (e : Int), (2 : Rat) ^ e ≤ q → q < (2 : Rat) ^ (e + 1) →
    rnd q = (2 : Rat) ^ (e - 23) * (rne (q / (2 : Rat) ^ (e - 23)) : Rat)) ∧
  ∀ a b : Rat, a ≤ b → rnd a ≤ rnd b

/-- Derived from 00_scope.md R4: `fsqrt(a)` is `u * n` with `u` the spacing at the exact square root and `n` the nearest integer, the
even one on a tie: the root lies between `(n - 1/2) * u` and `(n + 1/2) * u`. R4 gives the spacing in the normal range; that it
stands for every exponent is the model's choice (log entry 6). -/
def Obligations.FsqrtIsCorrectlyRounded : Prop :=
  ∀ (a : Rat) (e : Int), ((2 : Rat) ^ e) ^ 2 ≤ a → a < ((2 : Rat) ^ (e + 1)) ^ 2 →
    ∃ n : Nat, fsqrt a = (2 : Rat) ^ (e - 23) * (n : Rat) ∧
      (((n : Rat) - 1 / 2) * (2 : Rat) ^ (e - 23)) ^ 2 ≤ a ∧ a ≤ (((n : Rat) + 1 / 2) * (2 : Rat) ^ (e - 23)) ^ 2 ∧
      ((((n : Rat) - 1 / 2) * (2 : Rat) ^ (e - 23)) ^ 2 = a ∨ a = (((n : Rat) + 1 / 2) * (2 : Rat) ^ (e - 23)) ^ 2 →
        n % 2 = 0)

/-! ## The splash_blender -/

/-- 41_engine.md R169: the binary32 disk cut-off is the integer test. -/
def Obligations.DiskCutoffIsAnIntegerTest : Prop :=
  ∀ r dsq : Nat, 1 ≤ r → r ≤ 255 → dsq ≤ 2 * r ^ 2 → (fillAlpha dsq r ≤ 0 ↔ r ^ 2 ≤ dsq)

/-- Derived from 41_engine.md R170 and R171: the weight lies in `[0, 1]`, the halving and the multiplication by 256 are exact, and
`alpha` is `256 - rne(256 * xy)` with no need of its clamp. -/
def Obligations.BlendWeightNeedsNoClamp : Prop :=
  ∀ x y m : Nat, 1 ≤ m → m < 2 ^ 24 → x ≤ m → y ≤ m →
    0 ≤ errorWeight x y m ∧ errorWeight x y m ≤ 1 ∧
    errorWeight x y m = fadd (fdiv (f32 x) (f32 m)) (fdiv (f32 y) (f32 m)) / 2 ∧
    fmul 256 (errorWeight x y m) = 256 * errorWeight x y m ∧
    rne (256 * errorWeight x y m) ≤ 256 ∧ blendAlpha x y m = 256 - rne (256 * errorWeight x y m)

/-- Derived from 41_engine.md R172: a channel of the blend is the floor of the weighted mean; weight 256 gives the sample, weight 0
the old value, and two equal values give that value. -/
def Obligations.BlendIsTheWeightedMean : Prop :=
  ∀ (s o : Byte) (alpha : Nat), alpha ≤ 256 →
    s.toNat * alpha + o.toNat * (256 - alpha) ≤ 65280 ∧
    (blendChannel s o alpha).toNat = (s.toNat * alpha + o.toNat * (256 - alpha)) / 256 ∧
    (blendChannel s o 256 = s ∧ blendChannel s o 0 = o ∧ blendChannel s s alpha = s) ∧
    min s.toNat o.toNat ≤ (blendChannel s o alpha).toNat ∧ (blendChannel s o alpha).toNat ≤ max s.toNat o.toNat

/-- Derived from 41_engine.md R172, R174 and R176: a splat is the rule's double loop over its region, pixel by pixel. -/
def Obligations.SplatIsTheRuleLoop : Prop := ∀ (p : Splat) (c : Canvas), splatCanvas p c = splatLoop p c

/-- Derived from 41_engine.md R167, R168, R172 and R183: a splat blends every pixel of its region nearer than `R` to the cross point,
and leaves every other pixel as it was. -/
def Obligations.SplatWritesItsDiskOnly : Prop :=
  ∀ (p : Splat) (c : Canvas) (i j : Nat),
    (splatCanvas p c).length = c.length ∧
    (∀ k, ((splatCanvas p c).getD k []).length = (c.getD k []).length) ∧
    (i < p.cols.lo ∨ p.cols.hi < i ∨ j < p.rows.lo ∨ p.rows.hi < j ∨
      (p.radius : Int) ^ 2 ≤ ((i : Int) - p.ci) ^ 2 + ((j : Int) - p.cj) ^ 2 →
      pixelOf (splatCanvas p c) i j = pixelOf c i j) ∧
    (p.cols.lo ≤ i → i ≤ p.cols.hi → p.rows.lo ≤ j → j ≤ p.rows.hi →
      ((i : Int) - p.ci) ^ 2 + ((j : Int) - p.cj) ^ 2 < (p.radius : Int) ^ 2 →
      j < c.length → i < (c.getD j []).length →
      pixelOf (splatCanvas p c) i j =
        blendPixel p.sample (pixelOf c i j) (blendAlpha (entry p.xErr i) (entry p.yErr j) p.maxErr))

/-! ## Whole iterations -/

/-- Derived from 10_state.md R35 and 41_engine.md R161, R164, R165, R178: a selected iteration that passes its capacity check answers a
next state with `DONE = 1`; `POS` moves by 3 per cross line, `NUMPIX` in encode mode by 1 per cross line, the pivot ruler is
rebalanced, the packet changes in encode mode only and only at the bytes of its samples, and everything else but the canvas
stays. `epoch` is the model's own (log entry 2). -/
def Obligations.IterationFrame : Prop :=
  ∀ (mode : Mode) (s : State) (sel : Selection), s.opened = true → selection s = some sel → overCapacity s sel = false →
    ∃ t, exec (engineInstr mode) s = .next t ∧
      t.rsps = BitVec.ofNat 64 (sel.maxErr * 2 ^ 32 + sel.pivot * 2 ^ 16 + (if sel.axis = .col then 2 else 0) + 1) :: s.rsps ∧
      t.pos.toNat = s.pos.toNat + 3 * (crossOf s sel).length ∧
      t.numpix = (if mode = .encode then s.numpix + BitVec.ofNat 32 (crossOf s sel).length else s.numpix) ∧
      (sel.axis = .col →
        t.xErr = rebalance s.xErr (expand s.xErr s.w.toNat s.radius.toNat sel.pivot) sel.pivot s.radius.toNat ∧
        t.yErr = s.yErr) ∧
      (sel.axis = .row →
        t.yErr = rebalance s.yErr (expand s.yErr s.h.toNat s.radius.toNat sel.pivot) sel.pivot s.radius.toNat ∧
        t.xErr = s.xErr) ∧
      (mode = .decode → t.pkt = s.pkt) ∧
      (∀ a, (a < s.pos.toNat ∨ s.pos.toNat + 3 * (crossOf s sel).length ≤ a) → cellAt t.pkt a = cellAt s.pkt a) ∧
      t = { s with
        pos := t.pos, numpix := t.numpix, xErr := t.xErr, yErr := t.yErr, canvas := t.canvas, pkt := t.pkt
        rsps := t.rsps, epoch := t.epoch }

/-- Derived from 41_engine.md R165 and 20_memory.md R54: after a selected `STEPE`, the three bytes of the `n`-th sample, R, G, B, stand at
`POS + 3n`, and are the target's pixel at the `n`-th cross point. That an address the host did not hold is held afterwards is
the model's choice (log entry 11), and so is what a pixel it does not hold reads as (log entry 2). -/
def Obligations.StepeWritesItsSamples : Prop :=
  ∀ (s t : State) (sel : Selection) (n k : Nat), s.opened = true → selection s = some sel → overCapacity s sel = false →
    exec .stepe s = .next t → (crossOf s sel)[n]? = some k →
    let p := if sel.axis = .col then tgtRead s sel.pivot k else tgtRead s k sel.pivot
    cellAt t.pkt (s.pos.toNat + 3 * n) = some p.r ∧ cellAt t.pkt (s.pos.toNat + 3 * n + 1) = some p.g ∧
      cellAt t.pkt (s.pos.toNat + 3 * n + 2) = some p.b

/-- Derived from 41_engine.md R173: after a selected iteration, the pixel at every cross point is the sample of that cross point. -/
def Obligations.CrossPointBecomesTheSample : Prop :=
  ∀ (mode : Mode) (s t : State) (sel : Selection) (n k : Nat), Inv s → s.opened = true → selection s = some sel →
    overCapacity s sel = false → exec (engineInstr mode) s = .next t → (crossOf s sel)[n]? = some k →
    let ci := if sel.axis = .col then sel.pivot else k
    let cj := if sel.axis = .col then k else sel.pivot
    pixel t ci cj =
      match mode with
      | .decode =>
        { r := pktRead s (s.pos.toNat + 3 * n), g := pktRead s (s.pos.toNat + 3 * n + 1)
          b := pktRead s (s.pos.toNat + 3 * n + 2) }
      | .encode => tgtRead s ci cj

/-- Derived from 41_engine.md R180: an engine command never writes a pixel whose column and row are both exact, and both stay
exact. -/
def Obligations.ExactPixelsAreKept : Prop :=
  ∀ (mode : Mode) (s t : State) (i j : Nat), exec (engineInstr mode) s = .next t →
    entry s.xErr i = 0 → entry s.yErr j = 0 →
    pixel t i j = pixel s i j ∧ entry t.xErr i = 0 ∧ entry t.yErr j = 0

/-- 41_engine.md R179, its first sentence, derived: an iteration turns exactly one entry from non-zero to zero, the pivot, and none from zero to
non-zero. -/
def Obligations.IterationZeroesOneEntry : Prop :=
  ∀ (mode : Mode) (s : State) (sel : Selection), Inv s → s.opened = true → selection s = some sel →
    overCapacity s sel = false →
    ∃ t, exec (engineInstr mode) s = .next t ∧
      (∀ k, k < s.w.toNat → (entry t.xErr k = 0 ↔ entry s.xErr k = 0 ∨ sel.axis = .col ∧ k = sel.pivot)) ∧
      (∀ k, k < s.h.toNat → (entry t.yErr k = 0 ↔ entry s.yErr k = 0 ∨ sel.axis = .row ∧ k = sel.pivot)) ∧
      nonzeroCount t.xErr + nonzeroCount t.yErr + 1 = nonzeroCount s.xErr + nonzeroCount s.yErr

/-- Derived from 41_engine.md R179: of any sequence of engine commands from an open context, at most `W + H` respond with
`DONE = 1`. -/
def Obligations.EngineRunsEnd : Prop :=
  ∀ (modes : List Mode) (s : State), Inv s → s.opened = true →
    (engineRun modes s).length = modes.length ∧ (engineRun modes s).countP lastDone ≤ s.w.toNat + s.h.toNat

/-- Derived from 41_engine.md R181: `STEPD` on a block in the same state, whose packet holds the bytes that `STEPE` wrote, ends with the
same canvas, rulers, `POS` and response; only `NUMPIX` and the packet differ. That the bytes `STEPE` wrote are held afterwards
where the host held none is the model's choice (log entry 11). -/
def Obligations.EncodeAndDecodeAgree : Prop :=
  ∀ s1 s2 t1 : State, s2.opened = s1.opened → s2.canvas = s1.canvas → s2.xErr = s1.xErr → s2.yErr = s1.yErr →
    s2.radius = s1.radius → s2.w = s1.w → s2.h = s1.h → s2.pos = s1.pos → s2.size = s1.size →
    exec .stepe s1 = .next t1 →
    (∀ a, s1.pos.toNat ≤ a → a < t1.pos.toNat → cellAt s2.pkt a = cellAt t1.pkt a) →
    ∃ t2, exec .stepd s2 = .next t2 ∧ t2.canvas = t1.canvas ∧ t2.xErr = t1.xErr ∧ t2.yErr = t1.yErr ∧ t2.pos = t1.pos ∧
      t2.rsps.head? = t1.rsps.head? ∧ t2.numpix = s2.numpix ∧ t2.pkt = s2.pkt
end

