-- ==== Sys2Proof/Laws/Canvas.lean ====
section
/-! SUPPORT. The laws of the canvas: the rows and pixels of a splat. -/

namespace Sys2Proof.Machine

/-- A splat keeps the number of rows. -/
@[simp] theorem splatCanvas_length (p : Splat) (cv : Canvas) : (splatCanvas p cv).length = cv.length := by simp [splatCanvas]

/-- Every row after a splat, from the same row before it. -/
theorem splatCanvas_getElem? (p : Splat) (cv : Canvas) (j : Nat) :
    (splatCanvas p cv)[j]? =
      cv[j]?.map fun row => if inRange p.rows j then row.mapIdx fun i o => splatPixel p i j o else row := by
  simp [splatCanvas]

/-- Every pixel of the canvas after a splat, from the same pixel before it. -/
theorem pixelOf_splatCanvas {p : Splat} {cv : Canvas} {i j : Nat} (hj : j < cv.length) (hi : i < (cv.getD j []).length) :
    pixelOf (splatCanvas p cv) i j = splatPixel p i j (pixelOf cv i j) := by
  have hi' : i < cv[j].length := by rwa [List.getD_eq_getElem _ _ hj] at hi
  have e1 : (splatCanvas p cv).getD j [] = if inRange p.rows j then cv[j].mapIdx fun i o => splatPixel p i j o else cv[j] := by
    rw [List.getD_eq_getElem?_getD, splatCanvas_getElem?]
    simp [hj]
  have e2 : pixelOf cv i j = cv[j][i] := by
    rw [pixelOf, List.getD_eq_getElem _ _ hj, List.getD_eq_getElem _ _ hi']
  rw [e2]
  unfold pixelOf
  rw [e1]
  split
  · simp [hi']
  · next h =>
    have : splatCovers p i j = false := by simp [splatCovers, h]
    rw [List.getD_eq_getElem _ _ hi']
    simp [splatPixel, this]

end Sys2Proof.Machine
end

