-- ==== Sys2Proof/Laws/Decode.lean ====
section
/-! SUPPORT. The laws of placed fields and of reserved masks, on which every fact about a word rests. -/

namespace Sys2Proof

/-! ## Placed fields -/

/-- A bit of a placed field. -/
@[simp] theorem getLsbD_placeField (k : Nat) {n : Nat} (v : BitVec n) (lo i : Nat) :
    (placeField k v lo).getLsbD i = (decide (i < k) && !decide (i < lo) && v.getLsbD (i - lo)) := by
  simp only [placeField, BitVec.getLsbD_shiftLeft, BitVec.getLsbD_setWidth]
  by_cases h1 : i < k <;> by_cases h2 : i < lo <;> simp [h1, h2]
  omega

/-- A bit of a placed field, by index. -/
@[simp] theorem getElem_placeField (k : Nat) {n : Nat} (v : BitVec n) (lo i : Nat) (h : i < k) :
    (placeField k v lo)[i] = (!decide (i < lo) && v.getLsbD (i - lo)) := by
  simp [← BitVec.getLsbD_eq_getElem, h]

/-- A field that fits its place reads back from the word it was placed in. -/
theorem extractLsb'_placeField_same {k n lo : Nat} (v : BitVec n) (h : lo + n ≤ k) :
    (placeField k v lo).extractLsb' lo n = v := by
  ext i hi
  have h1 : lo + i < k := by omega
  simp [h1, hi]

/-- A field placed below a range of bits is not in that range. -/
theorem extractLsb'_placeField_above {k n m lo at_ : Nat} (v : BitVec n) (h : lo + n ≤ at_) :
    (placeField k v lo).extractLsb' at_ m = 0#m := by
  ext i hi
  have : n ≤ at_ + i - lo := by omega
  simp [BitVec.getLsbD_of_ge v _ this]

/-- A field placed above a range of bits is not in that range. -/
theorem extractLsb'_placeField_below {k n m lo at_ : Nat} (v : BitVec n) (h : at_ + m ≤ lo) :
    (placeField k v lo).extractLsb' at_ m = 0#m := by
  ext i hi
  have : at_ + i < lo := by omega
  simp [this]

/-- A range of bits of a combined word is the combination of the ranges. -/
theorem extractLsb'_or {k : Nat} (v w : BitVec k) (lo n : Nat) :
    (v ||| w).extractLsb' lo n = v.extractLsb' lo n ||| w.extractLsb' lo n := by
  ext i hi; simp

/-! ## Reserved masks -/

/-- A word has no bit in common with a block of ones exactly when its bits there are zero. -/
theorem and_block_eq_zero_iff {k n lo : Nat} (w : BitVec k) (h : lo + n ≤ k) :
    w &&& placeField k (BitVec.allOnes n) lo = 0#k ↔ w.extractLsb' lo n = 0#n := by
  constructor
  · intro e
    ext i hi
    have h1 : lo + i < k := by omega
    have := congrArg (fun x : BitVec k => x.getLsbD (lo + i)) e
    simpa [h1, hi] using this
  · intro e
    ext i hi
    by_cases h1 : i < lo
    · simp [h1]
    · by_cases h2 : i - lo < n
      · have := congrArg (fun x : BitVec n => x.getLsbD (i - lo)) e
        have h3 : lo + (i - lo) = i := by omega
        have h4 : w[i] = false := by simpa [h2, h3, hi] using this
        simp [h4]
      · simp [h1, h2]

/-- The reserved mask of each format is one block of ones (30_encoding.md R81). -/
theorem reservedMask_eq_block (f : Format) :
    f.reservedMask =
      match f with
      | .n => placeField 64 (BitVec.allOnes 56) 0
      | .d => placeField 64 (BitVec.allOnes 24) 0
      | .b => placeField 64 (BitVec.allOnes 48) 8
      | .v => placeField 64 (BitVec.allOnes 24) 32
      | .r => placeField 64 (BitVec.allOnes 16) 24
      | .i => placeField 64 (BitVec.allOnes 40) 0 := by
  cases f <;> decide

/-- A word's reserved bits are clear exactly when the reserved range of its format is zero (30_encoding.md R81, R83). -/
theorem reserved_clear_iff (f : Format) (w : CmdWord) :
    w &&& f.reservedMask = 0#64 ↔
      match f with
      | .n => w.extractLsb' 0 56 = 0#56
      | .d => w.extractLsb' 0 24 = 0#24
      | .b => w.extractLsb' 8 48 = 0#48
      | .v => w.extractLsb' 32 24 = 0#24
      | .r => w.extractLsb' 24 16 = 0#16
      | .i => w.extractLsb' 0 40 = 0#40 := by
  rw [reservedMask_eq_block]
  cases f <;> exact and_block_eq_zero_iff w (by omega)

/-! ## Opcodes -/

/-- The byte of an opcode names it. -/
@[simp] theorem ofCode_code (op : Op) : Op.ofCode op.code = some op := by cases op <;> rfl

/-- A byte that names an opcode is its byte. -/
theorem code_of_ofCode {c : BitVec 8} {op : Op} (h : Op.ofCode c = some op) : op.code = c := by
  revert h
  cases op <;> revert c <;> decide

/-- The bytes above 0x10 name no opcode (30_encoding.md R86). -/
theorem ofCode_eq_none_iff (c : BitVec 8) : Op.ofCode c = none ↔ 0x10 < c.toNat := by revert c; decide

/-- The decoder, by cases on the opcode byte and the reserved bits. -/
theorem decode_cases (w : CmdWord) :
    (Op.ofCode (fieldOp w) = none ∧ decode w = .error (.reservedOpcode (fieldOp w))) ∨
    ∃ op, Op.ofCode (fieldOp w) = some op ∧
      ((w &&& op.format.reservedMask = 0#64 ∧ decode w = .ok (op.operands w)) ∨
        (w &&& op.format.reservedMask ≠ 0#64 ∧ decode w = .error (.reservedBits op))) := by
  unfold decode
  cases h : Op.ofCode (fieldOp w) with
  | none => exact .inl ⟨rfl, rfl⟩
  | some op =>
    refine .inr ⟨op, rfl, ?_⟩
    by_cases hr : w &&& op.format.reservedMask = 0#64
    · exact .inl ⟨hr, by simp [hr]⟩
    · exact .inr ⟨hr, by simp [hr]⟩

/-- The operands of an opcode are those of a command of that opcode. -/
@[simp] theorem op_operands (w : CmdWord) (op : Op) : (op.operands w).op = op := by cases op <;> rfl

end Sys2Proof
end

