-- ==== Sys2Proof/Laws/Engine.lean ====
section
/-! SUPPORT. What the perpendicular walk and an iteration leave alone, field by field, so that no later proof unfolds them. -/

namespace Sys2Proof.Machine

/-! ## One cross point -/

/-- Obtaining a sample writes `pos`, `numpix` and `pkt` at most. -/
theorem takeSample_frame (mode : Mode) (ci cj : Nat) (s : State) :
    (takeSample mode ci cj s).2 = { s with
      pos := s.pos + 3#32, numpix := (takeSample mode ci cj s).2.numpix, pkt := (takeSample mode ci cj s).2.pkt } := by
  cases mode <;> rfl

/-- A cross point writes `pos`, `numpix`, `pkt` and the canvas at most. -/
theorem crossPoint_frame (mode : Mode) (sel : Selection) (rng : Range) (s : State) (k : Nat) :
    crossPoint mode sel rng s k = { s with
      pos := s.pos + 3#32, numpix := (crossPoint mode sel rng s k).numpix, pkt := (crossPoint mode sel rng s k).pkt
      canvas := (crossPoint mode sel rng s k).canvas } := by
  cases mode <;> rfl

/-- In decode mode a cross point writes neither `numpix` nor `pkt`. -/
theorem crossPoint_decode (sel : Selection) (rng : Range) (s : State) (k : Nat) :
    (crossPoint .decode sel rng s k).numpix = s.numpix ∧ (crossPoint .decode sel rng s k).pkt = s.pkt := ⟨rfl, rfl⟩

/-- In encode mode a cross point counts one sample and writes its three bytes. -/
theorem crossPoint_encode (sel : Selection) (rng : Range) (s : State) (k : Nat) :
    (crossPoint .encode sel rng s k).numpix = s.numpix + 1#32 ∧
      (crossPoint .encode sel rng s k).pkt =
        (pktWriteSample s s.pos.toNat (tgtRead s (crossColumn sel k) (crossRow sel k))).pkt := ⟨rfl, rfl⟩

/-! ## The walk -/

/-- The walk over cross points writes `pos`, `numpix`, `pkt` and the canvas at most. -/
theorem walk_frame (mode : Mode) (sel : Selection) (rng : Range) (ks : List Nat) (s : State) :
    ks.foldl (crossPoint mode sel rng) s = { s with
      pos := (ks.foldl (crossPoint mode sel rng) s).pos, numpix := (ks.foldl (crossPoint mode sel rng) s).numpix
      pkt := (ks.foldl (crossPoint mode sel rng) s).pkt, canvas := (ks.foldl (crossPoint mode sel rng) s).canvas } := by
  induction ks generalizing s with
  | nil => rfl
  | cons k ks ih =>
    simp only [List.foldl_cons]
    generalize hu : crossPoint mode sel rng s k = u
    have hf := crossPoint_frame mode sel rng s k
    rw [hu] at hf
    have i := ih u
    generalize ks.foldl (crossPoint mode sel rng) u = v at i ⊢
    rw [i, hf]

/-- The walk moves `POS` by 3 for every cross point, modulo 2^32. -/
theorem walk_pos (mode : Mode) (sel : Selection) (rng : Range) (ks : List Nat) (s : State) :
    (ks.foldl (crossPoint mode sel rng) s).pos = s.pos + BitVec.ofNat 32 (3 * ks.length) := by
  induction ks generalizing s with
  | nil => simp
  | cons k ks ih =>
    rw [List.foldl_cons, ih, crossPoint_frame]
    simp only [List.length_cons]
    apply BitVec.eq_of_toNat_eq
    simp only [BitVec.toNat_add, BitVec.toNat_ofNat]
    omega

/-- An iteration writes no register but `POS` and `NUMPIX`, no ruler but the pivot ruler, and neither channel. -/
theorem iterate_frame (mode : Mode) (s : State) (sel : Selection) :
    iterate mode s sel = { rebalanced s sel with
      pos := (iterate mode s sel).pos, numpix := (iterate mode s sel).numpix, pkt := (iterate mode s sel).pkt
      canvas := (iterate mode s sel).canvas, epoch := (iterate mode s sel).epoch } := by
  have h := walk_frame mode sel (pivotRange s sel) (crossOf s sel) (rebalanced s sel)
  simp only [iterate]
  generalize (crossOf s sel).foldl (crossPoint mode sel (pivotRange s sel)) (rebalanced s sel) = v at h ⊢
  rw [h]

/-- Rebalancing writes the pivot ruler only. -/
theorem rebalanced_frame (s : State) (sel : Selection) :
    rebalanced s sel = { s with xErr := (rebalanced s sel).xErr, yErr := (rebalanced s sel).yErr } := by
  unfold rebalanced setPivotRuler
  cases sel.axis <;> rfl

end Sys2Proof.Machine
end

