-- ==== Sys2Proof/Laws/Float.lean ====
section
/-! SUPPORT. The laws of binary32 rounding: powers of two, exponents, nearest integers, integer square roots, and the values that
rounding leaves alone. -/

namespace Sys2Proof.Machine

/-! ## Powers of two and exponents -/

/-- `pow2` is the power of two. -/
theorem pow2_eq_zpow (e : Int) : pow2 e = (2 : ℚ) ^ e := by
  cases e with
  | ofNat n => simp [pow2]
  | negSucc n => simp [pow2, zpow_negSucc, Rat.mkRat_eq_div]

/-- `pow2` is positive. -/
theorem pow2_pos (e : Int) : 0 < pow2 e := by rw [pow2_eq_zpow]; positivity

/-- Exponents add. -/
theorem pow2_add (a b : Int) : pow2 (a + b) = pow2 a * pow2 b := by
  simp only [pow2_eq_zpow]; exact zpow_add₀ two_ne_zero a b

/-- `floorLog2` is the floor of the logarithm (00_scope.md R4). -/
theorem floorLog2_spec {q : ℚ} (h : 0 < q) : pow2 (floorLog2 q) ≤ q ∧ q < pow2 (floorLog2 q + 1) := by
  have hn : 0 < q.num := Rat.num_pos.mpr h
  obtain ⟨a, ha⟩ : ∃ a : ℕ, q.num = a := ⟨q.num.toNat, by omega⟩
  have ha0 : a ≠ 0 := by rintro rfl; omega
  have hb0 : q.den ≠ 0 := q.den_nz
  have hq : q = (a : ℚ) / (q.den : ℚ) := by
    conv_lhs => rw [← Rat.num_div_den q, ha]
    simp
  have hbq : (0 : ℚ) < q.den := by exact_mod_cast Nat.pos_of_ne_zero hb0
  have a1 : ((2 ^ Nat.log2 a : ℕ) : ℚ) ≤ a := by exact_mod_cast Nat.log2_self_le ha0
  have a2 : (a : ℚ) < ((2 ^ (Nat.log2 a + 1) : ℕ) : ℚ) := by exact_mod_cast Nat.lt_log2_self
  have b1 : ((2 ^ Nat.log2 q.den : ℕ) : ℚ) ≤ q.den := by exact_mod_cast Nat.log2_self_le hb0
  have b2 : (q.den : ℚ) < ((2 ^ (Nat.log2 q.den + 1) : ℕ) : ℚ) := by exact_mod_cast Nat.lt_log2_self
  push_cast at a1 a2 b1 b2
  set la := Nat.log2 a with hla
  set lb := Nat.log2 q.den with hlb
  have lo : pow2 ((la : ℤ) - lb - 1) < q := by
    rw [hq, lt_div_iff₀ hbq, pow2_eq_zpow]
    calc (2 : ℚ) ^ ((la : ℤ) - lb - 1) * q.den < (2 : ℚ) ^ ((la : ℤ) - lb - 1) * 2 ^ (lb + 1) := by
          apply mul_lt_mul_of_pos_left b2; positivity
      _ = 2 ^ la := by
          rw [← zpow_natCast, ← zpow_add₀ two_ne_zero, ← zpow_natCast]; congr 1; push_cast; ring
      _ ≤ a := a1
  have hi : q < pow2 ((la : ℤ) - lb + 1) := by
    rw [hq, div_lt_iff₀ hbq, pow2_eq_zpow]
    calc (a : ℚ) < 2 ^ (la + 1) := a2
      _ = (2 : ℚ) ^ ((la : ℤ) - lb + 1) * 2 ^ lb := by
          rw [← zpow_natCast (2 : ℚ) lb, ← zpow_add₀ two_ne_zero, ← zpow_natCast]; congr 1; push_cast; ring
      _ ≤ (2 : ℚ) ^ ((la : ℤ) - lb + 1) * q.den := by
          apply mul_le_mul_of_nonneg_left b1; positivity
  have e : floorLog2 q = if pow2 ((la : ℤ) - lb) ≤ q then (la : ℤ) - lb else (la : ℤ) - lb - 1 := by
    simp [floorLog2, ha, hla, hlb]
  rw [e]
  split
  · next h' => exact ⟨h', hi⟩
  · next h' => exact ⟨lo.le, by simpa using h'⟩

/-- The exponent of a number is the only one whose binade holds it. -/
theorem floorLog2_unique {q : ℚ} {e : Int} (h1 : pow2 e ≤ q) (h2 : q < pow2 (e + 1)) : floorLog2 q = e := by
  have hq : 0 < q := (pow2_pos e).trans_le h1
  obtain ⟨s1, s2⟩ := floorLog2_spec hq
  rw [pow2_eq_zpow] at h1 h2 s1 s2
  have l1 : floorLog2 q < e + 1 := (zpow_lt_zpow_iff_right₀ one_lt_two).mp (s1.trans_lt h2)
  have l2 : e < floorLog2 q + 1 := (zpow_lt_zpow_iff_right₀ one_lt_two).mp (h1.trans_lt s2)
  omega

/-! ## Nearest integers -/

/-- `rneDiv a b` is within one half of `a / b`, and even where it is exactly one half away. -/
theorem rneDiv_spec (a : ℕ) {b : ℕ} (hb : 0 < b) :
    2 * a ≤ (2 * rneDiv a b + 1) * b ∧ 2 * rneDiv a b * b ≤ 2 * a + b ∧
      (2 * a = (2 * rneDiv a b + 1) * b ∨ 2 * rneDiv a b * b = 2 * a + b → rneDiv a b % 2 = 0) := by
  have hd := Nat.div_add_mod a b
  have hr := Nat.mod_lt a hb
  unfold rneDiv
  set f := a / b
  set r := a % b
  have e1 : (2 * f + 1) * b = 2 * (b * f) + b := by ring
  have e2 : 2 * f * b = 2 * (b * f) := by ring
  have e3 : (2 * (f + 1) + 1) * b = 2 * (b * f) + 3 * b := by ring
  have e4 : 2 * (f + 1) * b = 2 * (b * f) + 2 * b := by ring
  split
  · rw [e1, e2]; omega
  · split
    · rw [e3, e4]; omega
    · rcases Nat.mod_two_eq_zero_or_one f with h | h
      · have h0 : f + f % 2 = f := by omega
        rw [h0, e1, e2]; omega
      · have h1 : f + f % 2 = f + 1 := by omega
        rw [h1, e3, e4]; omega

/-- A number within less than one half of `a / b` is `rneDiv a b`. -/
theorem rneDiv_unique {a b n : ℕ} (hb : 0 < b) (h1 : 2 * a < (2 * n + 1) * b) (h2 : 2 * n * b < 2 * a + b) :
    rneDiv a b = n := by
  obtain ⟨s1, s2, -⟩ := rneDiv_spec a hb
  set m := rneDiv a b
  rcases Nat.lt_trichotomy m n with h | h | h
  · exfalso
    have : (2 * m + 1) * b + b ≤ 2 * n * b := by nlinarith
    omega
  · exact h
  · exfalso
    have : (2 * n + 1) * b + b ≤ 2 * m * b := by nlinarith
    omega

/-- `rne` leaves an integer alone. -/
@[simp] theorem rne_natCast (n : ℕ) : rne (n : ℚ) = n := by
  simp [rne, rneDiv, Nat.mod_one]

/-- A larger number has a larger nearest integer. -/
theorem rne_mono {p q : ℚ} (hp : 0 ≤ p) (h : p ≤ q) : rne p ≤ rne q := by
  have hq : 0 ≤ q := hp.trans h
  obtain ⟨a, ha⟩ : ∃ a : ℕ, p.num = a := ⟨p.num.toNat, by have := Rat.num_nonneg.mpr hp; omega⟩
  obtain ⟨c, hc⟩ : ∃ c : ℕ, q.num = c := ⟨q.num.toNat, by have := Rat.num_nonneg.mpr hq; omega⟩
  have hle : a * q.den ≤ c * p.den := by
    have := Rat.le_iff p q |>.mp h
    rw [ha, hc] at this
    exact_mod_cast this
  have hb : 0 < p.den := p.den_pos
  have hd : 0 < q.den := q.den_pos
  simp only [rne, ha, hc, Int.toNat_natCast]
  obtain ⟨-, p2, p3⟩ := rneDiv_spec a hb
  obtain ⟨q1, -, q3⟩ := rneDiv_spec c hd
  set m := rneDiv a p.den
  set n := rneDiv c q.den
  set b := p.den
  set d := q.den
  by_contra hlt
  have hlt : n + 1 ≤ m := by omega
  have k1 : 2 * m * b * d ≤ (2 * a + b) * d := Nat.mul_le_mul_right d p2
  have k2 : 2 * c * b ≤ (2 * n + 1) * d * b := Nat.mul_le_mul_right b q1
  have k3 : 2 * (a * d) ≤ 2 * (c * b) := by omega
  have k4 : (2 * n + 2) * (b * d) ≤ 2 * m * (b * d) := Nat.mul_le_mul_right _ (by omega)
  have x1 : 2 * m * b * d = 2 * m * (b * d) := by ring
  have x2 : (2 * a + b) * d = 2 * (a * d) + b * d := by ring
  have x3 : 2 * c * b = 2 * (c * b) := by ring
  have x4 : (2 * n + 1) * d * b = (2 * n + 1) * (b * d) := by ring
  have x5 : (2 * n + 2) * (b * d) = (2 * n + 1) * (b * d) + b * d := by ring
  have y1 : 2 * m * (b * d) = 2 * (a * d) + b * d := by omega
  have y2 : 2 * (c * b) = (2 * n + 1) * (b * d) := by omega
  have z1 : 2 * m * b = 2 * a + b := Nat.eq_of_mul_eq_mul_right hd (by rw [x1, x2]; exact y1)
  have z2 : 2 * c = (2 * n + 1) * d := Nat.eq_of_mul_eq_mul_right hb (by rw [x3, x4]; exact y2)
  have w1 := p3 (Or.inr z1)
  have w2 := q3 (Or.inl z2)
  have w3 : 2 * m * (b * d) = (2 * n + 2) * (b * d) := by omega
  have w4 : 2 * m = 2 * n + 2 := Nat.eq_of_mul_eq_mul_right (Nat.mul_pos hb hd) w3
  omega

/-! ## The values rounding leaves alone -/

/-- Rounding leaves 0 alone. -/
@[simp] theorem rnd_zero : rnd 0 = 0 := by simp [rnd]

/-- Rounding a positive number. -/
theorem rnd_of_pos {q : ℚ} (h : 0 < q) : rnd q = ulp q * (rne (q / ulp q) : ℚ) := by
  simp [rnd, h.ne', h, rndPos]

/-- The spacing around a number is positive. -/
theorem ulp_pos (q : ℚ) : 0 < ulp q := pow2_pos _

/-- A binary32 value, `m * 2^e` with a significand of 24 bits, is its own rounding. -/
theorem rnd_of_significand (m : ℕ) (e : Int) (hm : m < 2 ^ 24) : rnd ((m : ℚ) * pow2 e) = (m : ℚ) * pow2 e := by
  rcases Nat.eq_zero_or_pos m with rfl | hpos
  · simp
  have hm' : (0 : ℚ) < m := by exact_mod_cast hpos
  have hq : (0 : ℚ) < (m : ℚ) * pow2 e := mul_pos hm' (pow2_pos e)
  obtain ⟨s1, s2⟩ := floorLog2_spec hq
  set q := (m : ℚ) * pow2 e with hqdef
  have hlt : q < pow2 (e + 24) := by
    rw [pow2_add, mul_comm (pow2 e)]
    apply mul_lt_mul_of_pos_right _ (pow2_pos e)
    have : pow2 24 = ((2 ^ 24 : ℕ) : ℚ) := rfl
    rw [this]; exact_mod_cast hm
  have hexp : floorLog2 q < e + 24 := by
    rw [pow2_eq_zpow] at s1 hlt
    exact (zpow_lt_zpow_iff_right₀ one_lt_two).mp (s1.trans_lt hlt)
  obtain ⟨k, hk⟩ : ∃ k : ℕ, e - (floorLog2 q - 23) = k := ⟨(e - (floorLog2 q - 23)).toNat, by omega⟩
  have hdiv : q / ulp q = ((m * 2 ^ k : ℕ) : ℚ) := by
    rw [div_eq_iff (ulp_pos q).ne', ulp]
    push_cast
    have h2 : ((2 : ℚ) ^ k) = pow2 k := by rw [pow2_eq_zpow]; simp
    rw [h2, mul_assoc, ← pow2_add, ← hk, hqdef]
    congr 2
    ring
  rw [rnd_of_pos hq, hdiv, rne_natCast, ← hdiv, mul_div_cancel₀ _ (ulp_pos q).ne']

/-- `f32` is exact below 2^24 (00_scope.md R4). -/
theorem rnd_natCast {n : ℕ} (h : n < 2 ^ 24) : rnd (n : ℚ) = n := by
  have := rnd_of_significand n 0 h
  simpa [pow2] using this

/-! ## Integer square roots -/

/-- `isqrtBits` is the integer square root while the number has at most `2 k` bits. -/
theorem isqrtBits_spec (k : ℕ) :
    ∀ n, n < 4 ^ k → isqrtBits k n * isqrtBits k n ≤ n ∧ n < (isqrtBits k n + 1) * (isqrtBits k n + 1) := by
  induction k with
  | zero => intro n h; simp only [pow_zero] at h; simp [isqrtBits]; omega
  | succ k ih =>
    intro n h
    have h4 : n / 4 < 4 ^ k := by rw [pow_succ] at h; omega
    obtain ⟨i1, i2⟩ := ih (n / 4) h4
    simp only [isqrtBits]
    set m := isqrtBits k (n / 4)
    have hn := Nat.div_add_mod n 4
    have hr := Nat.mod_lt n (show 0 < 4 by omega)
    have e1 : 2 * m * (2 * m) = 4 * (m * m) := by ring
    have e2 : (2 * m + 1 + 1) * (2 * m + 1 + 1) = 4 * ((m + 1) * (m + 1)) := by ring
    split
    · next hc => exact ⟨hc, by rw [e2]; omega⟩
    · next hc => exact ⟨by rw [e1]; omega, by omega⟩

/-- `isqrt` is the integer square root. -/
theorem isqrt_spec (n : ℕ) : isqrt n * isqrt n ≤ n ∧ n < (isqrt n + 1) * (isqrt n + 1) := by
  apply isqrtBits_spec
  calc n < 2 ^ (Nat.log2 n + 1) := Nat.lt_log2_self
    _ ≤ 4 ^ (Nat.log2 n + 1) := Nat.pow_le_pow_left (by omega) _

end Sys2Proof.Machine
end

