-- ==== Sys2Proof/Laws/State.lean ====
section
/-! SUPPORT. One lemma per field of `State` per named update: what the field is after it. -/

namespace Sys2Proof.Machine

/-! ### respond -/

@[simp] theorem respond_status (c : BitVec 8) (d : BitVec 56) (s : State) :
    (respond c d s).status = s.status := rfl

@[simp] theorem respond_opened (c : BitVec 8) (d : BitVec 56) (s : State) :
    (respond c d s).opened = s.opened := rfl

@[simp] theorem respond_w (c : BitVec 8) (d : BitVec 56) (s : State) :
    (respond c d s).w = s.w := rfl

@[simp] theorem respond_h (c : BitVec 8) (d : BitVec 56) (s : State) :
    (respond c d s).h = s.h := rfl

@[simp] theorem respond_radius (c : BitVec 8) (d : BitVec 56) (s : State) :
    (respond c d s).radius = s.radius := rfl

@[simp] theorem respond_pos (c : BitVec 8) (d : BitVec 56) (s : State) :
    (respond c d s).pos = s.pos := rfl

@[simp] theorem respond_size (c : BitVec 8) (d : BitVec 56) (s : State) :
    (respond c d s).size = s.size := rfl

@[simp] theorem respond_numpix (c : BitVec 8) (d : BitVec 56) (s : State) :
    (respond c d s).numpix = s.numpix := rfl

@[simp] theorem respond_maxW (c : BitVec 8) (d : BitVec 56) (s : State) :
    (respond c d s).maxW = s.maxW := rfl

@[simp] theorem respond_maxH (c : BitVec 8) (d : BitVec 56) (s : State) :
    (respond c d s).maxH = s.maxH := rfl

@[simp] theorem respond_canvas (c : BitVec 8) (d : BitVec 56) (s : State) :
    (respond c d s).canvas = s.canvas := rfl

@[simp] theorem respond_xErr (c : BitVec 8) (d : BitVec 56) (s : State) :
    (respond c d s).xErr = s.xErr := rfl

@[simp] theorem respond_yErr (c : BitVec 8) (d : BitVec 56) (s : State) :
    (respond c d s).yErr = s.yErr := rfl

@[simp] theorem respond_pkt (c : BitVec 8) (d : BitVec 56) (s : State) :
    (respond c d s).pkt = s.pkt := rfl

@[simp] theorem respond_tgt (c : BitVec 8) (d : BitVec 56) (s : State) :
    (respond c d s).tgt = s.tgt := rfl

@[simp] theorem respond_cmds (c : BitVec 8) (d : BitVec 56) (s : State) :
    (respond c d s).cmds = s.cmds := rfl

@[simp] theorem respond_rsps (c : BitVec 8) (d : BitVec 56) (s : State) :
    (respond c d s).rsps = responseWord c d :: s.rsps := rfl

@[simp] theorem respond_epoch (c : BitVec 8) (d : BitVec 56) (s : State) :
    (respond c d s).epoch = s.epoch := rfl

/-! ### succeed -/

@[simp] theorem succeed_status (d : BitVec 56) (s : State) :
    (succeed d s).status = s.status := rfl

@[simp] theorem succeed_opened (d : BitVec 56) (s : State) :
    (succeed d s).opened = s.opened := rfl

@[simp] theorem succeed_w (d : BitVec 56) (s : State) :
    (succeed d s).w = s.w := rfl

@[simp] theorem succeed_h (d : BitVec 56) (s : State) :
    (succeed d s).h = s.h := rfl

@[simp] theorem succeed_radius (d : BitVec 56) (s : State) :
    (succeed d s).radius = s.radius := rfl

@[simp] theorem succeed_pos (d : BitVec 56) (s : State) :
    (succeed d s).pos = s.pos := rfl

@[simp] theorem succeed_size (d : BitVec 56) (s : State) :
    (succeed d s).size = s.size := rfl

@[simp] theorem succeed_numpix (d : BitVec 56) (s : State) :
    (succeed d s).numpix = s.numpix := rfl

@[simp] theorem succeed_maxW (d : BitVec 56) (s : State) :
    (succeed d s).maxW = s.maxW := rfl

@[simp] theorem succeed_maxH (d : BitVec 56) (s : State) :
    (succeed d s).maxH = s.maxH := rfl

@[simp] theorem succeed_canvas (d : BitVec 56) (s : State) :
    (succeed d s).canvas = s.canvas := rfl

@[simp] theorem succeed_xErr (d : BitVec 56) (s : State) :
    (succeed d s).xErr = s.xErr := rfl

@[simp] theorem succeed_yErr (d : BitVec 56) (s : State) :
    (succeed d s).yErr = s.yErr := rfl

@[simp] theorem succeed_pkt (d : BitVec 56) (s : State) :
    (succeed d s).pkt = s.pkt := rfl

@[simp] theorem succeed_tgt (d : BitVec 56) (s : State) :
    (succeed d s).tgt = s.tgt := rfl

@[simp] theorem succeed_cmds (d : BitVec 56) (s : State) :
    (succeed d s).cmds = s.cmds := rfl

@[simp] theorem succeed_rsps (d : BitVec 56) (s : State) :
    (succeed d s).rsps = responseWord successCode d :: s.rsps := rfl

@[simp] theorem succeed_epoch (d : BitVec 56) (s : State) :
    (succeed d s).epoch = s.epoch := rfl

/-! ### raiseError -/

@[simp] theorem raiseError_status (e : ErrorCode) (s : State) :
    (raiseError e s).status = s.status ||| e.statusBit := rfl

@[simp] theorem raiseError_opened (e : ErrorCode) (s : State) :
    (raiseError e s).opened = s.opened := rfl

@[simp] theorem raiseError_w (e : ErrorCode) (s : State) :
    (raiseError e s).w = s.w := rfl

@[simp] theorem raiseError_h (e : ErrorCode) (s : State) :
    (raiseError e s).h = s.h := rfl

@[simp] theorem raiseError_radius (e : ErrorCode) (s : State) :
    (raiseError e s).radius = s.radius := rfl

@[simp] theorem raiseError_pos (e : ErrorCode) (s : State) :
    (raiseError e s).pos = s.pos := rfl

@[simp] theorem raiseError_size (e : ErrorCode) (s : State) :
    (raiseError e s).size = s.size := rfl

@[simp] theorem raiseError_numpix (e : ErrorCode) (s : State) :
    (raiseError e s).numpix = s.numpix := rfl

@[simp] theorem raiseError_maxW (e : ErrorCode) (s : State) :
    (raiseError e s).maxW = s.maxW := rfl

@[simp] theorem raiseError_maxH (e : ErrorCode) (s : State) :
    (raiseError e s).maxH = s.maxH := rfl

@[simp] theorem raiseError_canvas (e : ErrorCode) (s : State) :
    (raiseError e s).canvas = s.canvas := rfl

@[simp] theorem raiseError_xErr (e : ErrorCode) (s : State) :
    (raiseError e s).xErr = s.xErr := rfl

@[simp] theorem raiseError_yErr (e : ErrorCode) (s : State) :
    (raiseError e s).yErr = s.yErr := rfl

@[simp] theorem raiseError_pkt (e : ErrorCode) (s : State) :
    (raiseError e s).pkt = s.pkt := rfl

@[simp] theorem raiseError_tgt (e : ErrorCode) (s : State) :
    (raiseError e s).tgt = s.tgt := rfl

@[simp] theorem raiseError_cmds (e : ErrorCode) (s : State) :
    (raiseError e s).cmds = s.cmds := rfl

@[simp] theorem raiseError_rsps (e : ErrorCode) (s : State) :
    (raiseError e s).rsps = responseWord e.code 0#56 :: s.rsps := rfl

@[simp] theorem raiseError_epoch (e : ErrorCode) (s : State) :
    (raiseError e s).epoch = s.epoch := rfl

/-! ### writeX -/

@[simp] theorem writeX_status (k : Nat) (v : BitVec 24) (s : State) :
    (writeX k v s).status = s.status := rfl

@[simp] theorem writeX_opened (k : Nat) (v : BitVec 24) (s : State) :
    (writeX k v s).opened = s.opened := rfl

@[simp] theorem writeX_w (k : Nat) (v : BitVec 24) (s : State) :
    (writeX k v s).w = s.w := rfl

@[simp] theorem writeX_h (k : Nat) (v : BitVec 24) (s : State) :
    (writeX k v s).h = s.h := rfl

@[simp] theorem writeX_radius (k : Nat) (v : BitVec 24) (s : State) :
    (writeX k v s).radius = s.radius := rfl

@[simp] theorem writeX_pos (k : Nat) (v : BitVec 24) (s : State) :
    (writeX k v s).pos = s.pos := rfl

@[simp] theorem writeX_size (k : Nat) (v : BitVec 24) (s : State) :
    (writeX k v s).size = s.size := rfl

@[simp] theorem writeX_numpix (k : Nat) (v : BitVec 24) (s : State) :
    (writeX k v s).numpix = s.numpix := rfl

@[simp] theorem writeX_maxW (k : Nat) (v : BitVec 24) (s : State) :
    (writeX k v s).maxW = s.maxW := rfl

@[simp] theorem writeX_maxH (k : Nat) (v : BitVec 24) (s : State) :
    (writeX k v s).maxH = s.maxH := rfl

@[simp] theorem writeX_canvas (k : Nat) (v : BitVec 24) (s : State) :
    (writeX k v s).canvas = s.canvas := rfl

@[simp] theorem writeX_xErr (k : Nat) (v : BitVec 24) (s : State) :
    (writeX k v s).xErr = s.xErr.set k v := rfl

@[simp] theorem writeX_yErr (k : Nat) (v : BitVec 24) (s : State) :
    (writeX k v s).yErr = s.yErr := rfl

@[simp] theorem writeX_pkt (k : Nat) (v : BitVec 24) (s : State) :
    (writeX k v s).pkt = s.pkt := rfl

@[simp] theorem writeX_tgt (k : Nat) (v : BitVec 24) (s : State) :
    (writeX k v s).tgt = s.tgt := rfl

@[simp] theorem writeX_cmds (k : Nat) (v : BitVec 24) (s : State) :
    (writeX k v s).cmds = s.cmds := rfl

@[simp] theorem writeX_rsps (k : Nat) (v : BitVec 24) (s : State) :
    (writeX k v s).rsps = s.rsps := rfl

@[simp] theorem writeX_epoch (k : Nat) (v : BitVec 24) (s : State) :
    (writeX k v s).epoch = s.epoch := rfl

/-! ### writeY -/

@[simp] theorem writeY_status (k : Nat) (v : BitVec 24) (s : State) :
    (writeY k v s).status = s.status := rfl

@[simp] theorem writeY_opened (k : Nat) (v : BitVec 24) (s : State) :
    (writeY k v s).opened = s.opened := rfl

@[simp] theorem writeY_w (k : Nat) (v : BitVec 24) (s : State) :
    (writeY k v s).w = s.w := rfl

@[simp] theorem writeY_h (k : Nat) (v : BitVec 24) (s : State) :
    (writeY k v s).h = s.h := rfl

@[simp] theorem writeY_radius (k : Nat) (v : BitVec 24) (s : State) :
    (writeY k v s).radius = s.radius := rfl

@[simp] theorem writeY_pos (k : Nat) (v : BitVec 24) (s : State) :
    (writeY k v s).pos = s.pos := rfl

@[simp] theorem writeY_size (k : Nat) (v : BitVec 24) (s : State) :
    (writeY k v s).size = s.size := rfl

@[simp] theorem writeY_numpix (k : Nat) (v : BitVec 24) (s : State) :
    (writeY k v s).numpix = s.numpix := rfl

@[simp] theorem writeY_maxW (k : Nat) (v : BitVec 24) (s : State) :
    (writeY k v s).maxW = s.maxW := rfl

@[simp] theorem writeY_maxH (k : Nat) (v : BitVec 24) (s : State) :
    (writeY k v s).maxH = s.maxH := rfl

@[simp] theorem writeY_canvas (k : Nat) (v : BitVec 24) (s : State) :
    (writeY k v s).canvas = s.canvas := rfl

@[simp] theorem writeY_xErr (k : Nat) (v : BitVec 24) (s : State) :
    (writeY k v s).xErr = s.xErr := rfl

@[simp] theorem writeY_yErr (k : Nat) (v : BitVec 24) (s : State) :
    (writeY k v s).yErr = s.yErr.set k v := rfl

@[simp] theorem writeY_pkt (k : Nat) (v : BitVec 24) (s : State) :
    (writeY k v s).pkt = s.pkt := rfl

@[simp] theorem writeY_tgt (k : Nat) (v : BitVec 24) (s : State) :
    (writeY k v s).tgt = s.tgt := rfl

@[simp] theorem writeY_cmds (k : Nat) (v : BitVec 24) (s : State) :
    (writeY k v s).cmds = s.cmds := rfl

@[simp] theorem writeY_rsps (k : Nat) (v : BitVec 24) (s : State) :
    (writeY k v s).rsps = s.rsps := rfl

@[simp] theorem writeY_epoch (k : Nat) (v : BitVec 24) (s : State) :
    (writeY k v s).epoch = s.epoch := rfl

/-! ### newContext -/

@[simp] theorem newContext_status (a b : BitVec 16) (s : State) :
    (newContext a b s).status = s.status := rfl

@[simp] theorem newContext_opened (a b : BitVec 16) (s : State) :
    (newContext a b s).opened = true := rfl

@[simp] theorem newContext_w (a b : BitVec 16) (s : State) :
    (newContext a b s).w = a := rfl

@[simp] theorem newContext_h (a b : BitVec 16) (s : State) :
    (newContext a b s).h = b := rfl

@[simp] theorem newContext_radius (a b : BitVec 16) (s : State) :
    (newContext a b s).radius = 5#8 := rfl

@[simp] theorem newContext_pos (a b : BitVec 16) (s : State) :
    (newContext a b s).pos = 0#32 := rfl

@[simp] theorem newContext_size (a b : BitVec 16) (s : State) :
    (newContext a b s).size = 0#32 := rfl

@[simp] theorem newContext_numpix (a b : BitVec 16) (s : State) :
    (newContext a b s).numpix = 0#32 := rfl

@[simp] theorem newContext_maxW (a b : BitVec 16) (s : State) :
    (newContext a b s).maxW = s.maxW := rfl

@[simp] theorem newContext_maxH (a b : BitVec 16) (s : State) :
    (newContext a b s).maxH = s.maxH := rfl

@[simp] theorem newContext_canvas (a b : BitVec 16) (s : State) :
    (newContext a b s).canvas = grayCanvas a.toNat b.toNat := rfl

@[simp] theorem newContext_xErr (a b : BitVec 16) (s : State) :
    (newContext a b s).xErr = zeroRuler a.toNat := rfl

@[simp] theorem newContext_yErr (a b : BitVec 16) (s : State) :
    (newContext a b s).yErr = zeroRuler b.toNat := rfl

@[simp] theorem newContext_pkt (a b : BitVec 16) (s : State) :
    (newContext a b s).pkt = s.pkt := rfl

@[simp] theorem newContext_tgt (a b : BitVec 16) (s : State) :
    (newContext a b s).tgt = s.tgt := rfl

@[simp] theorem newContext_cmds (a b : BitVec 16) (s : State) :
    (newContext a b s).cmds = s.cmds := rfl

@[simp] theorem newContext_rsps (a b : BitVec 16) (s : State) :
    (newContext a b s).rsps = s.rsps := rfl

@[simp] theorem newContext_epoch (a b : BitVec 16) (s : State) :
    (newContext a b s).epoch = s.epoch := rfl

/-! ### dropContext -/

@[simp] theorem dropContext_status (s : State) :
    (dropContext s).status = s.status := rfl

@[simp] theorem dropContext_opened (s : State) :
    (dropContext s).opened = false := rfl

@[simp] theorem dropContext_w (s : State) :
    (dropContext s).w = 0#16 := rfl

@[simp] theorem dropContext_h (s : State) :
    (dropContext s).h = 0#16 := rfl

@[simp] theorem dropContext_radius (s : State) :
    (dropContext s).radius = s.radius := rfl

@[simp] theorem dropContext_pos (s : State) :
    (dropContext s).pos = s.pos := rfl

@[simp] theorem dropContext_size (s : State) :
    (dropContext s).size = s.size := rfl

@[simp] theorem dropContext_numpix (s : State) :
    (dropContext s).numpix = s.numpix := rfl

@[simp] theorem dropContext_maxW (s : State) :
    (dropContext s).maxW = s.maxW := rfl

@[simp] theorem dropContext_maxH (s : State) :
    (dropContext s).maxH = s.maxH := rfl

@[simp] theorem dropContext_canvas (s : State) :
    (dropContext s).canvas = [] := rfl

@[simp] theorem dropContext_xErr (s : State) :
    (dropContext s).xErr = [] := rfl

@[simp] theorem dropContext_yErr (s : State) :
    (dropContext s).yErr = [] := rfl

@[simp] theorem dropContext_pkt (s : State) :
    (dropContext s).pkt = s.pkt := rfl

@[simp] theorem dropContext_tgt (s : State) :
    (dropContext s).tgt = s.tgt := rfl

@[simp] theorem dropContext_cmds (s : State) :
    (dropContext s).cmds = s.cmds := rfl

@[simp] theorem dropContext_rsps (s : State) :
    (dropContext s).rsps = s.rsps := rfl

@[simp] theorem dropContext_epoch (s : State) :
    (dropContext s).epoch = s.epoch := rfl

/-! ### pktWrite -/

@[simp] theorem pktWrite_status (s : State) (a : Nat) (v : Byte) :
    (pktWrite s a v).status = s.status := rfl

@[simp] theorem pktWrite_opened (s : State) (a : Nat) (v : Byte) :
    (pktWrite s a v).opened = s.opened := rfl

@[simp] theorem pktWrite_w (s : State) (a : Nat) (v : Byte) :
    (pktWrite s a v).w = s.w := rfl

@[simp] theorem pktWrite_h (s : State) (a : Nat) (v : Byte) :
    (pktWrite s a v).h = s.h := rfl

@[simp] theorem pktWrite_radius (s : State) (a : Nat) (v : Byte) :
    (pktWrite s a v).radius = s.radius := rfl

@[simp] theorem pktWrite_pos (s : State) (a : Nat) (v : Byte) :
    (pktWrite s a v).pos = s.pos := rfl

@[simp] theorem pktWrite_size (s : State) (a : Nat) (v : Byte) :
    (pktWrite s a v).size = s.size := rfl

@[simp] theorem pktWrite_numpix (s : State) (a : Nat) (v : Byte) :
    (pktWrite s a v).numpix = s.numpix := rfl

@[simp] theorem pktWrite_maxW (s : State) (a : Nat) (v : Byte) :
    (pktWrite s a v).maxW = s.maxW := rfl

@[simp] theorem pktWrite_maxH (s : State) (a : Nat) (v : Byte) :
    (pktWrite s a v).maxH = s.maxH := rfl

@[simp] theorem pktWrite_canvas (s : State) (a : Nat) (v : Byte) :
    (pktWrite s a v).canvas = s.canvas := rfl

@[simp] theorem pktWrite_xErr (s : State) (a : Nat) (v : Byte) :
    (pktWrite s a v).xErr = s.xErr := rfl

@[simp] theorem pktWrite_yErr (s : State) (a : Nat) (v : Byte) :
    (pktWrite s a v).yErr = s.yErr := rfl

@[simp] theorem pktWrite_pkt (s : State) (a : Nat) (v : Byte) :
    (pktWrite s a v).pkt = cellSet s.pkt a v := rfl

@[simp] theorem pktWrite_tgt (s : State) (a : Nat) (v : Byte) :
    (pktWrite s a v).tgt = s.tgt := rfl

@[simp] theorem pktWrite_cmds (s : State) (a : Nat) (v : Byte) :
    (pktWrite s a v).cmds = s.cmds := rfl

@[simp] theorem pktWrite_rsps (s : State) (a : Nat) (v : Byte) :
    (pktWrite s a v).rsps = s.rsps := rfl

@[simp] theorem pktWrite_epoch (s : State) (a : Nat) (v : Byte) :
    (pktWrite s a v).epoch = s.epoch := rfl

/-! ### pktWriteSample -/

@[simp] theorem pktWriteSample_status (s : State) (a : Nat) (p : Pixel) :
    (pktWriteSample s a p).status = s.status := rfl

@[simp] theorem pktWriteSample_opened (s : State) (a : Nat) (p : Pixel) :
    (pktWriteSample s a p).opened = s.opened := rfl

@[simp] theorem pktWriteSample_w (s : State) (a : Nat) (p : Pixel) :
    (pktWriteSample s a p).w = s.w := rfl

@[simp] theorem pktWriteSample_h (s : State) (a : Nat) (p : Pixel) :
    (pktWriteSample s a p).h = s.h := rfl

@[simp] theorem pktWriteSample_radius (s : State) (a : Nat) (p : Pixel) :
    (pktWriteSample s a p).radius = s.radius := rfl

@[simp] theorem pktWriteSample_pos (s : State) (a : Nat) (p : Pixel) :
    (pktWriteSample s a p).pos = s.pos := rfl

@[simp] theorem pktWriteSample_size (s : State) (a : Nat) (p : Pixel) :
    (pktWriteSample s a p).size = s.size := rfl

@[simp] theorem pktWriteSample_numpix (s : State) (a : Nat) (p : Pixel) :
    (pktWriteSample s a p).numpix = s.numpix := rfl

@[simp] theorem pktWriteSample_maxW (s : State) (a : Nat) (p : Pixel) :
    (pktWriteSample s a p).maxW = s.maxW := rfl

@[simp] theorem pktWriteSample_maxH (s : State) (a : Nat) (p : Pixel) :
    (pktWriteSample s a p).maxH = s.maxH := rfl

@[simp] theorem pktWriteSample_canvas (s : State) (a : Nat) (p : Pixel) :
    (pktWriteSample s a p).canvas = s.canvas := rfl

@[simp] theorem pktWriteSample_xErr (s : State) (a : Nat) (p : Pixel) :
    (pktWriteSample s a p).xErr = s.xErr := rfl

@[simp] theorem pktWriteSample_yErr (s : State) (a : Nat) (p : Pixel) :
    (pktWriteSample s a p).yErr = s.yErr := rfl

@[simp] theorem pktWriteSample_pkt (s : State) (a : Nat) (p : Pixel) :
    (pktWriteSample s a p).pkt = cellSet (cellSet (cellSet s.pkt a p.r) (a + 1) p.g) (a + 2) p.b := rfl

@[simp] theorem pktWriteSample_tgt (s : State) (a : Nat) (p : Pixel) :
    (pktWriteSample s a p).tgt = s.tgt := rfl

@[simp] theorem pktWriteSample_cmds (s : State) (a : Nat) (p : Pixel) :
    (pktWriteSample s a p).cmds = s.cmds := rfl

@[simp] theorem pktWriteSample_rsps (s : State) (a : Nat) (p : Pixel) :
    (pktWriteSample s a p).rsps = s.rsps := rfl

@[simp] theorem pktWriteSample_epoch (s : State) (a : Nat) (p : Pixel) :
    (pktWriteSample s a p).epoch = s.epoch := rfl

/-! ### placeCommand -/

@[simp] theorem placeCommand_status (w : CmdWord) (s : State) :
    (placeCommand w s).status = s.status := rfl

@[simp] theorem placeCommand_opened (w : CmdWord) (s : State) :
    (placeCommand w s).opened = s.opened := rfl

@[simp] theorem placeCommand_w (w : CmdWord) (s : State) :
    (placeCommand w s).w = s.w := rfl

@[simp] theorem placeCommand_h (w : CmdWord) (s : State) :
    (placeCommand w s).h = s.h := rfl

@[simp] theorem placeCommand_radius (w : CmdWord) (s : State) :
    (placeCommand w s).radius = s.radius := rfl

@[simp] theorem placeCommand_pos (w : CmdWord) (s : State) :
    (placeCommand w s).pos = s.pos := rfl

@[simp] theorem placeCommand_size (w : CmdWord) (s : State) :
    (placeCommand w s).size = s.size := rfl

@[simp] theorem placeCommand_numpix (w : CmdWord) (s : State) :
    (placeCommand w s).numpix = s.numpix := rfl

@[simp] theorem placeCommand_maxW (w : CmdWord) (s : State) :
    (placeCommand w s).maxW = s.maxW := rfl

@[simp] theorem placeCommand_maxH (w : CmdWord) (s : State) :
    (placeCommand w s).maxH = s.maxH := rfl

@[simp] theorem placeCommand_canvas (w : CmdWord) (s : State) :
    (placeCommand w s).canvas = s.canvas := rfl

@[simp] theorem placeCommand_xErr (w : CmdWord) (s : State) :
    (placeCommand w s).xErr = s.xErr := rfl

@[simp] theorem placeCommand_yErr (w : CmdWord) (s : State) :
    (placeCommand w s).yErr = s.yErr := rfl

@[simp] theorem placeCommand_pkt (w : CmdWord) (s : State) :
    (placeCommand w s).pkt = s.pkt := rfl

@[simp] theorem placeCommand_tgt (w : CmdWord) (s : State) :
    (placeCommand w s).tgt = s.tgt := rfl

@[simp] theorem placeCommand_cmds (w : CmdWord) (s : State) :
    (placeCommand w s).cmds = w :: s.cmds := rfl

@[simp] theorem placeCommand_rsps (w : CmdWord) (s : State) :
    (placeCommand w s).rsps = s.rsps := rfl

@[simp] theorem placeCommand_epoch (w : CmdWord) (s : State) :
    (placeCommand w s).epoch = s.epoch := rfl

/-! ### hostSend -/

@[simp] theorem hostSend_status (w : CmdWord) (s : State) :
    (hostSend w s).status = s.status := rfl

@[simp] theorem hostSend_opened (w : CmdWord) (s : State) :
    (hostSend w s).opened = s.opened := rfl

@[simp] theorem hostSend_w (w : CmdWord) (s : State) :
    (hostSend w s).w = s.w := rfl

@[simp] theorem hostSend_h (w : CmdWord) (s : State) :
    (hostSend w s).h = s.h := rfl

@[simp] theorem hostSend_radius (w : CmdWord) (s : State) :
    (hostSend w s).radius = s.radius := rfl

@[simp] theorem hostSend_pos (w : CmdWord) (s : State) :
    (hostSend w s).pos = s.pos := rfl

@[simp] theorem hostSend_size (w : CmdWord) (s : State) :
    (hostSend w s).size = s.size := rfl

@[simp] theorem hostSend_numpix (w : CmdWord) (s : State) :
    (hostSend w s).numpix = s.numpix := rfl

@[simp] theorem hostSend_maxW (w : CmdWord) (s : State) :
    (hostSend w s).maxW = s.maxW := rfl

@[simp] theorem hostSend_maxH (w : CmdWord) (s : State) :
    (hostSend w s).maxH = s.maxH := rfl

@[simp] theorem hostSend_canvas (w : CmdWord) (s : State) :
    (hostSend w s).canvas = s.canvas := rfl

@[simp] theorem hostSend_xErr (w : CmdWord) (s : State) :
    (hostSend w s).xErr = s.xErr := rfl

@[simp] theorem hostSend_yErr (w : CmdWord) (s : State) :
    (hostSend w s).yErr = s.yErr := rfl

@[simp] theorem hostSend_pkt (w : CmdWord) (s : State) :
    (hostSend w s).pkt = s.pkt := rfl

@[simp] theorem hostSend_tgt (w : CmdWord) (s : State) :
    (hostSend w s).tgt = s.tgt := rfl

@[simp] theorem hostSend_cmds (w : CmdWord) (s : State) :
    (hostSend w s).cmds = s.cmds ++ [w] := rfl

@[simp] theorem hostSend_rsps (w : CmdWord) (s : State) :
    (hostSend w s).rsps = s.rsps := rfl

@[simp] theorem hostSend_epoch (w : CmdWord) (s : State) :
    (hostSend w s).epoch = s.epoch := rfl

/-! ### hostPlacePkt -/

@[simp] theorem hostPlacePkt_status (a : Nat) (bs : List Byte) (s : State) :
    (hostPlacePkt a bs s).status = s.status := rfl

@[simp] theorem hostPlacePkt_opened (a : Nat) (bs : List Byte) (s : State) :
    (hostPlacePkt a bs s).opened = s.opened := rfl

@[simp] theorem hostPlacePkt_w (a : Nat) (bs : List Byte) (s : State) :
    (hostPlacePkt a bs s).w = s.w := rfl

@[simp] theorem hostPlacePkt_h (a : Nat) (bs : List Byte) (s : State) :
    (hostPlacePkt a bs s).h = s.h := rfl

@[simp] theorem hostPlacePkt_radius (a : Nat) (bs : List Byte) (s : State) :
    (hostPlacePkt a bs s).radius = s.radius := rfl

@[simp] theorem hostPlacePkt_pos (a : Nat) (bs : List Byte) (s : State) :
    (hostPlacePkt a bs s).pos = s.pos := rfl

@[simp] theorem hostPlacePkt_size (a : Nat) (bs : List Byte) (s : State) :
    (hostPlacePkt a bs s).size = s.size := rfl

@[simp] theorem hostPlacePkt_numpix (a : Nat) (bs : List Byte) (s : State) :
    (hostPlacePkt a bs s).numpix = s.numpix := rfl

@[simp] theorem hostPlacePkt_maxW (a : Nat) (bs : List Byte) (s : State) :
    (hostPlacePkt a bs s).maxW = s.maxW := rfl

@[simp] theorem hostPlacePkt_maxH (a : Nat) (bs : List Byte) (s : State) :
    (hostPlacePkt a bs s).maxH = s.maxH := rfl

@[simp] theorem hostPlacePkt_canvas (a : Nat) (bs : List Byte) (s : State) :
    (hostPlacePkt a bs s).canvas = s.canvas := rfl

@[simp] theorem hostPlacePkt_xErr (a : Nat) (bs : List Byte) (s : State) :
    (hostPlacePkt a bs s).xErr = s.xErr := rfl

@[simp] theorem hostPlacePkt_yErr (a : Nat) (bs : List Byte) (s : State) :
    (hostPlacePkt a bs s).yErr = s.yErr := rfl

@[simp] theorem hostPlacePkt_pkt (a : Nat) (bs : List Byte) (s : State) :
    (hostPlacePkt a bs s).pkt = cellsSet s.pkt a (bs.take (pktTop - a)) := rfl

@[simp] theorem hostPlacePkt_tgt (a : Nat) (bs : List Byte) (s : State) :
    (hostPlacePkt a bs s).tgt = s.tgt := rfl

@[simp] theorem hostPlacePkt_cmds (a : Nat) (bs : List Byte) (s : State) :
    (hostPlacePkt a bs s).cmds = s.cmds := rfl

@[simp] theorem hostPlacePkt_rsps (a : Nat) (bs : List Byte) (s : State) :
    (hostPlacePkt a bs s).rsps = s.rsps := rfl

@[simp] theorem hostPlacePkt_epoch (a : Nat) (bs : List Byte) (s : State) :
    (hostPlacePkt a bs s).epoch = s.epoch := rfl

/-! ### hostPlaceTgt -/

@[simp] theorem hostPlaceTgt_status (i j : BitVec 16) (p : Pixel) (s : State) :
    (hostPlaceTgt i j p s).status = s.status := rfl

@[simp] theorem hostPlaceTgt_opened (i j : BitVec 16) (p : Pixel) (s : State) :
    (hostPlaceTgt i j p s).opened = s.opened := rfl

@[simp] theorem hostPlaceTgt_w (i j : BitVec 16) (p : Pixel) (s : State) :
    (hostPlaceTgt i j p s).w = s.w := rfl

@[simp] theorem hostPlaceTgt_h (i j : BitVec 16) (p : Pixel) (s : State) :
    (hostPlaceTgt i j p s).h = s.h := rfl

@[simp] theorem hostPlaceTgt_radius (i j : BitVec 16) (p : Pixel) (s : State) :
    (hostPlaceTgt i j p s).radius = s.radius := rfl

@[simp] theorem hostPlaceTgt_pos (i j : BitVec 16) (p : Pixel) (s : State) :
    (hostPlaceTgt i j p s).pos = s.pos := rfl

@[simp] theorem hostPlaceTgt_size (i j : BitVec 16) (p : Pixel) (s : State) :
    (hostPlaceTgt i j p s).size = s.size := rfl

@[simp] theorem hostPlaceTgt_numpix (i j : BitVec 16) (p : Pixel) (s : State) :
    (hostPlaceTgt i j p s).numpix = s.numpix := rfl

@[simp] theorem hostPlaceTgt_maxW (i j : BitVec 16) (p : Pixel) (s : State) :
    (hostPlaceTgt i j p s).maxW = s.maxW := rfl

@[simp] theorem hostPlaceTgt_maxH (i j : BitVec 16) (p : Pixel) (s : State) :
    (hostPlaceTgt i j p s).maxH = s.maxH := rfl

@[simp] theorem hostPlaceTgt_canvas (i j : BitVec 16) (p : Pixel) (s : State) :
    (hostPlaceTgt i j p s).canvas = s.canvas := rfl

@[simp] theorem hostPlaceTgt_xErr (i j : BitVec 16) (p : Pixel) (s : State) :
    (hostPlaceTgt i j p s).xErr = s.xErr := rfl

@[simp] theorem hostPlaceTgt_yErr (i j : BitVec 16) (p : Pixel) (s : State) :
    (hostPlaceTgt i j p s).yErr = s.yErr := rfl

@[simp] theorem hostPlaceTgt_pkt (i j : BitVec 16) (p : Pixel) (s : State) :
    (hostPlaceTgt i j p s).pkt = s.pkt := rfl

@[simp] theorem hostPlaceTgt_tgt (i j : BitVec 16) (p : Pixel) (s : State) :
    (hostPlaceTgt i j p s).tgt = cellSet s.tgt (tgtKey i.toNat j.toNat) p := rfl

@[simp] theorem hostPlaceTgt_cmds (i j : BitVec 16) (p : Pixel) (s : State) :
    (hostPlaceTgt i j p s).cmds = s.cmds := rfl

@[simp] theorem hostPlaceTgt_rsps (i j : BitVec 16) (p : Pixel) (s : State) :
    (hostPlaceTgt i j p s).rsps = s.rsps := rfl

@[simp] theorem hostPlaceTgt_epoch (i j : BitVec 16) (p : Pixel) (s : State) :
    (hostPlaceTgt i j p s).epoch = s.epoch := rfl

/-! ### takeSampleD -/

@[simp] theorem takeSampleD_status (s : State) :
    (takeSampleD s).2.status = s.status := rfl

@[simp] theorem takeSampleD_opened (s : State) :
    (takeSampleD s).2.opened = s.opened := rfl

@[simp] theorem takeSampleD_w (s : State) :
    (takeSampleD s).2.w = s.w := rfl

@[simp] theorem takeSampleD_h (s : State) :
    (takeSampleD s).2.h = s.h := rfl

@[simp] theorem takeSampleD_radius (s : State) :
    (takeSampleD s).2.radius = s.radius := rfl

@[simp] theorem takeSampleD_pos (s : State) :
    (takeSampleD s).2.pos = s.pos + 3#32 := rfl

@[simp] theorem takeSampleD_size (s : State) :
    (takeSampleD s).2.size = s.size := rfl

@[simp] theorem takeSampleD_numpix (s : State) :
    (takeSampleD s).2.numpix = s.numpix := rfl

@[simp] theorem takeSampleD_maxW (s : State) :
    (takeSampleD s).2.maxW = s.maxW := rfl

@[simp] theorem takeSampleD_maxH (s : State) :
    (takeSampleD s).2.maxH = s.maxH := rfl

@[simp] theorem takeSampleD_canvas (s : State) :
    (takeSampleD s).2.canvas = s.canvas := rfl

@[simp] theorem takeSampleD_xErr (s : State) :
    (takeSampleD s).2.xErr = s.xErr := rfl

@[simp] theorem takeSampleD_yErr (s : State) :
    (takeSampleD s).2.yErr = s.yErr := rfl

@[simp] theorem takeSampleD_pkt (s : State) :
    (takeSampleD s).2.pkt = s.pkt := rfl

@[simp] theorem takeSampleD_tgt (s : State) :
    (takeSampleD s).2.tgt = s.tgt := rfl

@[simp] theorem takeSampleD_cmds (s : State) :
    (takeSampleD s).2.cmds = s.cmds := rfl

@[simp] theorem takeSampleD_rsps (s : State) :
    (takeSampleD s).2.rsps = s.rsps := rfl

@[simp] theorem takeSampleD_epoch (s : State) :
    (takeSampleD s).2.epoch = s.epoch := rfl

/-! ### takeSampleE -/

@[simp] theorem takeSampleE_status (ci cj : Nat) (s : State) :
    (takeSampleE ci cj s).2.status = s.status := rfl

@[simp] theorem takeSampleE_opened (ci cj : Nat) (s : State) :
    (takeSampleE ci cj s).2.opened = s.opened := rfl

@[simp] theorem takeSampleE_w (ci cj : Nat) (s : State) :
    (takeSampleE ci cj s).2.w = s.w := rfl

@[simp] theorem takeSampleE_h (ci cj : Nat) (s : State) :
    (takeSampleE ci cj s).2.h = s.h := rfl

@[simp] theorem takeSampleE_radius (ci cj : Nat) (s : State) :
    (takeSampleE ci cj s).2.radius = s.radius := rfl

@[simp] theorem takeSampleE_pos (ci cj : Nat) (s : State) :
    (takeSampleE ci cj s).2.pos = s.pos + 3#32 := rfl

@[simp] theorem takeSampleE_size (ci cj : Nat) (s : State) :
    (takeSampleE ci cj s).2.size = s.size := rfl

@[simp] theorem takeSampleE_numpix (ci cj : Nat) (s : State) :
    (takeSampleE ci cj s).2.numpix = s.numpix + 1#32 := rfl

@[simp] theorem takeSampleE_maxW (ci cj : Nat) (s : State) :
    (takeSampleE ci cj s).2.maxW = s.maxW := rfl

@[simp] theorem takeSampleE_maxH (ci cj : Nat) (s : State) :
    (takeSampleE ci cj s).2.maxH = s.maxH := rfl

@[simp] theorem takeSampleE_canvas (ci cj : Nat) (s : State) :
    (takeSampleE ci cj s).2.canvas = s.canvas := rfl

@[simp] theorem takeSampleE_xErr (ci cj : Nat) (s : State) :
    (takeSampleE ci cj s).2.xErr = s.xErr := rfl

@[simp] theorem takeSampleE_yErr (ci cj : Nat) (s : State) :
    (takeSampleE ci cj s).2.yErr = s.yErr := rfl

@[simp] theorem takeSampleE_pkt (ci cj : Nat) (s : State) :
    (takeSampleE ci cj s).2.pkt = (pktWriteSample s s.pos.toNat (tgtRead s ci cj)).pkt := rfl

@[simp] theorem takeSampleE_tgt (ci cj : Nat) (s : State) :
    (takeSampleE ci cj s).2.tgt = s.tgt := rfl

@[simp] theorem takeSampleE_cmds (ci cj : Nat) (s : State) :
    (takeSampleE ci cj s).2.cmds = s.cmds := rfl

@[simp] theorem takeSampleE_rsps (ci cj : Nat) (s : State) :
    (takeSampleE ci cj s).2.rsps = s.rsps := rfl

@[simp] theorem takeSampleE_epoch (ci cj : Nat) (s : State) :
    (takeSampleE ci cj s).2.epoch = s.epoch := rfl

/-! ### setPivotRuler -/

@[simp] theorem setPivotRuler_status (s : State) (axis : Axis) (p : Ruler) :
    (setPivotRuler s axis p).status = s.status := by cases axis <;> rfl

@[simp] theorem setPivotRuler_opened (s : State) (axis : Axis) (p : Ruler) :
    (setPivotRuler s axis p).opened = s.opened := by cases axis <;> rfl

@[simp] theorem setPivotRuler_w (s : State) (axis : Axis) (p : Ruler) :
    (setPivotRuler s axis p).w = s.w := by cases axis <;> rfl

@[simp] theorem setPivotRuler_h (s : State) (axis : Axis) (p : Ruler) :
    (setPivotRuler s axis p).h = s.h := by cases axis <;> rfl

@[simp] theorem setPivotRuler_radius (s : State) (axis : Axis) (p : Ruler) :
    (setPivotRuler s axis p).radius = s.radius := by cases axis <;> rfl

@[simp] theorem setPivotRuler_pos (s : State) (axis : Axis) (p : Ruler) :
    (setPivotRuler s axis p).pos = s.pos := by cases axis <;> rfl

@[simp] theorem setPivotRuler_size (s : State) (axis : Axis) (p : Ruler) :
    (setPivotRuler s axis p).size = s.size := by cases axis <;> rfl

@[simp] theorem setPivotRuler_numpix (s : State) (axis : Axis) (p : Ruler) :
    (setPivotRuler s axis p).numpix = s.numpix := by cases axis <;> rfl

@[simp] theorem setPivotRuler_maxW (s : State) (axis : Axis) (p : Ruler) :
    (setPivotRuler s axis p).maxW = s.maxW := by cases axis <;> rfl

@[simp] theorem setPivotRuler_maxH (s : State) (axis : Axis) (p : Ruler) :
    (setPivotRuler s axis p).maxH = s.maxH := by cases axis <;> rfl

@[simp] theorem setPivotRuler_canvas (s : State) (axis : Axis) (p : Ruler) :
    (setPivotRuler s axis p).canvas = s.canvas := by cases axis <;> rfl

@[simp] theorem setPivotRuler_pkt (s : State) (axis : Axis) (p : Ruler) :
    (setPivotRuler s axis p).pkt = s.pkt := by cases axis <;> rfl

@[simp] theorem setPivotRuler_tgt (s : State) (axis : Axis) (p : Ruler) :
    (setPivotRuler s axis p).tgt = s.tgt := by cases axis <;> rfl

@[simp] theorem setPivotRuler_cmds (s : State) (axis : Axis) (p : Ruler) :
    (setPivotRuler s axis p).cmds = s.cmds := by cases axis <;> rfl

@[simp] theorem setPivotRuler_rsps (s : State) (axis : Axis) (p : Ruler) :
    (setPivotRuler s axis p).rsps = s.rsps := by cases axis <;> rfl

@[simp] theorem setPivotRuler_epoch (s : State) (axis : Axis) (p : Ruler) :
    (setPivotRuler s axis p).epoch = s.epoch := by cases axis <;> rfl

/-! ### rebalanced -/

@[simp] theorem rebalanced_status (s : State) (sel : Selection) :
    (rebalanced s sel).status = s.status := setPivotRuler_status _ _ _

@[simp] theorem rebalanced_opened (s : State) (sel : Selection) :
    (rebalanced s sel).opened = s.opened := setPivotRuler_opened _ _ _

@[simp] theorem rebalanced_w (s : State) (sel : Selection) :
    (rebalanced s sel).w = s.w := setPivotRuler_w _ _ _

@[simp] theorem rebalanced_h (s : State) (sel : Selection) :
    (rebalanced s sel).h = s.h := setPivotRuler_h _ _ _

@[simp] theorem rebalanced_radius (s : State) (sel : Selection) :
    (rebalanced s sel).radius = s.radius := setPivotRuler_radius _ _ _

@[simp] theorem rebalanced_pos (s : State) (sel : Selection) :
    (rebalanced s sel).pos = s.pos := setPivotRuler_pos _ _ _

@[simp] theorem rebalanced_size (s : State) (sel : Selection) :
    (rebalanced s sel).size = s.size := setPivotRuler_size _ _ _

@[simp] theorem rebalanced_numpix (s : State) (sel : Selection) :
    (rebalanced s sel).numpix = s.numpix := setPivotRuler_numpix _ _ _

@[simp] theorem rebalanced_maxW (s : State) (sel : Selection) :
    (rebalanced s sel).maxW = s.maxW := setPivotRuler_maxW _ _ _

@[simp] theorem rebalanced_maxH (s : State) (sel : Selection) :
    (rebalanced s sel).maxH = s.maxH := setPivotRuler_maxH _ _ _

@[simp] theorem rebalanced_canvas (s : State) (sel : Selection) :
    (rebalanced s sel).canvas = s.canvas := setPivotRuler_canvas _ _ _

@[simp] theorem rebalanced_pkt (s : State) (sel : Selection) :
    (rebalanced s sel).pkt = s.pkt := setPivotRuler_pkt _ _ _

@[simp] theorem rebalanced_tgt (s : State) (sel : Selection) :
    (rebalanced s sel).tgt = s.tgt := setPivotRuler_tgt _ _ _

@[simp] theorem rebalanced_cmds (s : State) (sel : Selection) :
    (rebalanced s sel).cmds = s.cmds := setPivotRuler_cmds _ _ _

@[simp] theorem rebalanced_rsps (s : State) (sel : Selection) :
    (rebalanced s sel).rsps = s.rsps := setPivotRuler_rsps _ _ _

@[simp] theorem rebalanced_epoch (s : State) (sel : Selection) :
    (rebalanced s sel).epoch = s.epoch := setPivotRuler_epoch _ _ _

/-! ### crossPoint -/

@[simp] theorem crossPoint_status (mode : Mode) (sel : Selection) (rng : Range) (s : State) (k : Nat) :
    (crossPoint mode sel rng s k).status = s.status := by cases mode <;> rfl

@[simp] theorem crossPoint_opened (mode : Mode) (sel : Selection) (rng : Range) (s : State) (k : Nat) :
    (crossPoint mode sel rng s k).opened = s.opened := by cases mode <;> rfl

@[simp] theorem crossPoint_w (mode : Mode) (sel : Selection) (rng : Range) (s : State) (k : Nat) :
    (crossPoint mode sel rng s k).w = s.w := by cases mode <;> rfl

@[simp] theorem crossPoint_h (mode : Mode) (sel : Selection) (rng : Range) (s : State) (k : Nat) :
    (crossPoint mode sel rng s k).h = s.h := by cases mode <;> rfl

@[simp] theorem crossPoint_radius (mode : Mode) (sel : Selection) (rng : Range) (s : State) (k : Nat) :
    (crossPoint mode sel rng s k).radius = s.radius := by cases mode <;> rfl

@[simp] theorem crossPoint_size (mode : Mode) (sel : Selection) (rng : Range) (s : State) (k : Nat) :
    (crossPoint mode sel rng s k).size = s.size := by cases mode <;> rfl

@[simp] theorem crossPoint_maxW (mode : Mode) (sel : Selection) (rng : Range) (s : State) (k : Nat) :
    (crossPoint mode sel rng s k).maxW = s.maxW := by cases mode <;> rfl

@[simp] theorem crossPoint_maxH (mode : Mode) (sel : Selection) (rng : Range) (s : State) (k : Nat) :
    (crossPoint mode sel rng s k).maxH = s.maxH := by cases mode <;> rfl

@[simp] theorem crossPoint_xErr (mode : Mode) (sel : Selection) (rng : Range) (s : State) (k : Nat) :
    (crossPoint mode sel rng s k).xErr = s.xErr := by cases mode <;> rfl

@[simp] theorem crossPoint_yErr (mode : Mode) (sel : Selection) (rng : Range) (s : State) (k : Nat) :
    (crossPoint mode sel rng s k).yErr = s.yErr := by cases mode <;> rfl

@[simp] theorem crossPoint_tgt (mode : Mode) (sel : Selection) (rng : Range) (s : State) (k : Nat) :
    (crossPoint mode sel rng s k).tgt = s.tgt := by cases mode <;> rfl

@[simp] theorem crossPoint_cmds (mode : Mode) (sel : Selection) (rng : Range) (s : State) (k : Nat) :
    (crossPoint mode sel rng s k).cmds = s.cmds := by cases mode <;> rfl

@[simp] theorem crossPoint_rsps (mode : Mode) (sel : Selection) (rng : Range) (s : State) (k : Nat) :
    (crossPoint mode sel rng s k).rsps = s.rsps := by cases mode <;> rfl

@[simp] theorem crossPoint_epoch (mode : Mode) (sel : Selection) (rng : Range) (s : State) (k : Nat) :
    (crossPoint mode sel rng s k).epoch = s.epoch := by cases mode <;> rfl

@[simp] theorem setPivotRuler_col (s : State) (p : Ruler) : setPivotRuler s .col p = { s with xErr := p } := rfl

@[simp] theorem setPivotRuler_row (s : State) (p : Ruler) : setPivotRuler s .row p = { s with yErr := p } := rfl

end Sys2Proof.Machine
end

