-- ==== Sys2Proof/Laws/Memory.lean ====
section
/-! SUPPORT. The laws of host memory: reading after writing, and the canonical form, which every operation keeps. -/

namespace Sys2Proof.Machine

/-! ## Reading after writing -/

/-- The written key reads as the value written. -/
@[simp] theorem cellAt_cellSet_same {α : Type} (m : List (Nat × α)) (a : Nat) (v : α) :
    cellAt (cellSet m a v) a = some v := by
  induction m with
  | nil => simp [cellSet, cellAt]
  | cons c m ih =>
    obtain ⟨b, u⟩ := c
    simp only [cellSet]
    split
    · simp [cellAt]
    · split
      · simp [cellAt]
      · next h => simp [cellAt, h, ih]

/-- Every other key reads as before. -/
theorem cellAt_cellSet_other {α : Type} (m : List (Nat × α)) {a b : Nat} (v : α) (h : b ≠ a) :
    cellAt (cellSet m a v) b = cellAt m b := by
  induction m with
  | nil => simp [cellSet, cellAt, h]
  | cons c m ih =>
    obtain ⟨d, u⟩ := c
    simp only [cellSet]
    split
    · simp [cellAt, h]
    · split
      · next e => subst e; simp [cellAt, h]
      · simp only [cellAt, ih]

/-- Both laws in one: what any key reads as after a write. -/
theorem cellAt_cellSet {α : Type} (m : List (Nat × α)) (a b : Nat) (v : α) :
    cellAt (cellSet m a v) b = if b = a then some v else cellAt m b := by
  split
  · next h => rw [h, cellAt_cellSet_same]
  · next h => exact cellAt_cellSet_other m v h

/-- What any key reads as after a run of writes: the run's value inside it, the old value outside. -/
theorem cellAt_cellsSet {α : Type} (vs : List α) (m : List (Nat × α)) (a b : Nat) :
    cellAt (cellsSet m a vs) b = if a ≤ b ∧ b < a + vs.length then vs[b - a]? else cellAt m b := by
  induction vs generalizing m a with
  | nil => simp [cellsSet]
  | cons v vs ih =>
    rw [cellsSet, ih, cellAt_cellSet]
    by_cases h : b = a
    · subst h; simp
    · by_cases h' : a + 1 ≤ b ∧ b < a + 1 + vs.length
      · have e : b - a = b - (a + 1) + 1 := by omega
        rw [if_pos h', if_pos (by simp; omega), e, List.getElem?_cons_succ]
      · rw [if_neg h', if_neg h, if_neg (by simp; omega)]

/-! ## The canonical form -/

/-- The canonical form from a bound is the canonical form from every lower bound. -/
theorem cellsWf_of_le {α : Type} {top low low' : Nat} {m : List (Nat × α)} (h : cellsWf top low m = true)
    (hle : low' ≤ low) : cellsWf top low' m = true := by
  cases m with
  | nil => rfl
  | cons c m =>
    obtain ⟨b, u⟩ := c
    simp only [cellsWf, Bool.and_eq_true, decide_eq_true_eq] at h ⊢
    exact ⟨⟨by omega, h.1.2⟩, h.2⟩

/-- A write inside the space keeps the canonical form. -/
theorem cellsWf_cellSet {α : Type} {top a : Nat} (v : α) (ha : a < top) :
    ∀ {low : Nat} {m : List (Nat × α)}, low ≤ a → cellsWf top low m = true → cellsWf top low (cellSet m a v) = true := by
  intro low m
  induction m generalizing low with
  | nil => intro hl _; simp [cellSet, cellsWf, hl, ha]
  | cons c m ih =>
    obtain ⟨b, u⟩ := c
    intro hl h
    simp only [cellsWf, Bool.and_eq_true, decide_eq_true_eq] at h
    simp only [cellSet]
    split
    · next hb => simp only [cellsWf, Bool.and_eq_true, decide_eq_true_eq]; exact ⟨⟨hl, ha⟩, ⟨by omega, h.1.2⟩, h.2⟩
    · split
      · next _ e => subst e; simp only [cellsWf, Bool.and_eq_true, decide_eq_true_eq]; exact ⟨⟨hl, ha⟩, h.2⟩
      · simp only [cellsWf, Bool.and_eq_true, decide_eq_true_eq]
        exact ⟨h.1, ih (by omega) h.2⟩

/-- A run of writes inside the space keeps the canonical form. -/
theorem cellsWf_cellsSet {α : Type} {top : Nat} (vs : List α) :
    ∀ {a : Nat} {m : List (Nat × α)}, a + vs.length ≤ top → cellsWf top 0 m = true →
      cellsWf top 0 (cellsSet m a vs) = true := by
  induction vs with
  | nil => intro a m _ h; exact h
  | cons v vs ih =>
    intro a m ha h
    simp only [List.length_cons] at ha
    exact ih (by omega) (cellsWf_cellSet v (by omega) (Nat.zero_le a) h)

/-- A listed key of a canonical list lies inside the space and at or above the bound. -/
theorem cellAt_bounds {α : Type} {top : Nat} {v : α} {a : Nat} :
    ∀ {low : Nat} {m : List (Nat × α)}, cellsWf top low m = true → cellAt m a = some v → low ≤ a ∧ a < top := by
  intro low m
  induction m generalizing low with
  | nil => intro _ h; simp [cellAt] at h
  | cons c m ih =>
    obtain ⟨b, u⟩ := c
    intro hwf h
    simp only [cellsWf, Bool.and_eq_true, decide_eq_true_eq] at hwf
    simp only [cellAt] at h
    split at h
    · next e => subst e; exact hwf.1
    · have := ih hwf.2 h; omega

/-- Two canonical lists that read the same everywhere are equal. -/
theorem cells_ext {α : Type} {top : Nat} :
    ∀ {low : Nat} {m n : List (Nat × α)}, cellsWf top low m = true → cellsWf top low n = true →
      (∀ a, cellAt m a = cellAt n a) → m = n := by
  intro low m
  induction m generalizing low with
  | nil =>
    intro n _ _ h
    cases n with
    | nil => rfl
    | cons c n => have := h c.1; simp [cellAt] at this
  | cons c m ih =>
    intro n hm hn h
    obtain ⟨b, u⟩ := c
    cases n with
    | nil => have := h b; simp [cellAt] at this
    | cons d n =>
      obtain ⟨d, x⟩ := d
      simp only [cellsWf, Bool.and_eq_true, decide_eq_true_eq] at hm hn
      have hb := h b
      have hd := h d
      simp only [cellAt, if_true] at hb hd
      have e : b = d := by
        by_contra hne
        rw [if_neg hne] at hb
        rw [if_neg (Ne.symm hne)] at hd
        have h1 := (cellAt_bounds hn.2 hb.symm).1
        have h2 := (cellAt_bounds hm.2 hd).1
        omega
      subst e
      simp only [if_true, Option.some.injEq] at hb
      subst hb
      have : m = n := ih hm.2 hn.2 fun a => by
        by_cases ha : a = b
        · have none_of {k : List (Nat × α)} (hk : cellsWf top (b + 1) k = true) : cellAt k b = none := by
            cases hc : cellAt k b with
            | none => rfl
            | some v => have := (cellAt_bounds hk hc).1; omega
          rw [ha, none_of hm.2, none_of hn.2]
        · have := h a; simpa [cellAt, ha] using this
      rw [this]

/-! ## The packet -/

/-- What a packet address holds after a sample is written. -/
theorem cellAt_pktWriteSample (s : State) (a b : Nat) (p : Pixel) :
    cellAt (pktWriteSample s a p).pkt b =
      if b = a + 2 then some p.b else if b = a + 1 then some p.g else if b = a then some p.r else cellAt s.pkt b := by
  simp [cellAt_cellSet]

/-- Writing a sample inside the packet space keeps its canonical form. -/
theorem pktWf_pktWriteSample {s : State} {a : Nat} (p : Pixel) (h : pktWf s.pkt = true) (ha : a + 2 < pktTop) :
    pktWf (pktWriteSample s a p).pkt = true := by
  simp only [pktWf, pktWriteSample_pkt] at h ⊢
  exact cellsWf_cellSet _ ha (Nat.zero_le _)
    (cellsWf_cellSet _ (by omega) (Nat.zero_le _) (cellsWf_cellSet _ (by omega) (Nat.zero_le _) h))

/-- A listed byte is what the block reads. -/
theorem pktRead_of_cellAt {s : State} {a : Nat} {v : Byte} (h : cellAt s.pkt a = some v) : pktRead s a = v := by
  simp [pktRead, h]

/-- A read depends on the packet and the iteration count alone. -/
theorem pktRead_congr {s t : State} (hp : t.pkt = s.pkt) (he : t.epoch = s.epoch) (a : Nat) : pktRead t a = pktRead s a := by
  simp [pktRead, hp, he]

/-- A target read depends on the target and the iteration count alone. -/
theorem tgtRead_congr {s t : State} (hp : t.tgt = s.tgt) (he : t.epoch = s.epoch) (i j : Nat) :
    tgtRead t i j = tgtRead s i j := by
  simp [tgtRead, hp, he]

/-! ## The target -/

/-- Two target pixels never share a key. -/
theorem tgtKey_injective {i j i' j' : Nat} (hi : i < 65536) (hi' : i' < 65536) (h : tgtKey i j = tgtKey i' j') :
    i = i' ∧ j = j' := by
  simp only [tgtKey] at h; omega

/-- Presenting a pixel keeps the target's canonical form. -/
theorem tgtWf_hostPlaceTgt (i j : BitVec 16) (p : Pixel) {s : State} (h : tgtWf s.tgt = true) :
    tgtWf (hostPlaceTgt i j p s).tgt = true := by
  have hi := i.isLt
  have hj := j.isLt
  refine cellsWf_cellSet p ?_ (Nat.zero_le _) h
  simp only [tgtKey, tgtTop]; omega

/-- Placing bytes keeps the packet's canonical form. -/
theorem pktWf_hostPlacePkt (a : Nat) (bs : List Byte) {s : State} (h : pktWf s.pkt = true) :
    pktWf (hostPlacePkt a bs s).pkt = true := by
  simp only [hostPlacePkt_pkt, pktWf] at h ⊢
  by_cases ha : a ≤ pktTop
  · exact cellsWf_cellsSet _ (by simp only [List.length_take]; omega) h
  · have : pktTop - a = 0 := by omega
    simpa [this, cellsSet] using h

end Sys2Proof.Machine
end

