-- ==== Sys2Proof/Laws/Ops.lean ====
section
/-! SUPPORT. What the shared operations can do, said once: the response of a command, the open-context check, the engine
command, the meanings, and the step. -/

namespace Sys2Proof.Machine

/-! ## Responses -/

/-- `CODE` of a response word. -/
@[simp] theorem responseCode_responseWord (c : BitVec 8) (d : BitVec 56) : responseCode (responseWord c d) = c := by
  rw [responseCode, responseWord, extractLsb'_or, extractLsb'_placeField_same _ (by omega),
    extractLsb'_placeField_above _ (by omega), BitVec.or_zero]

/-- `DATA` of a response word. -/
@[simp] theorem responseData_responseWord (c : BitVec 8) (d : BitVec 56) : responseData (responseWord c d) = d := by
  rw [responseData, responseWord, extractLsb'_or, extractLsb'_placeField_same _ (by omega),
    extractLsb'_placeField_below _ (by omega), BitVec.zero_or]

/-- No error has the code of success. -/
theorem errorCode_ne_success (e : ErrorCode) : e.code ≠ successCode := by cases e <;> decide

/-- The error codes are 1 to 5. -/
theorem errorCode_range (e : ErrorCode) : 1 ≤ e.number ∧ e.number ≤ 5 := by cases e <;> decide

/-! ## The open-context check -/

/-- The check passes on an open context. -/
@[simp] theorem whenOpen_of_open {s act : State} (h : s.opened = true) : whenOpen s act = act := by simp [whenOpen, h]

/-- The check fails on a closed one. -/
@[simp] theorem whenOpen_of_closed {s act : State} (h : s.opened = false) : whenOpen s act = raiseError .notOpen s := by
  simp [whenOpen, h]

/-! ## The engine command -/

/-- Everything an engine command can do: respond 0 where nothing is selected, report that the capacity check failed, or perform
the iteration that was selected. -/
theorem engineCommand_cases (mode : Mode) (s : State) :
    (selection s = none ∧ engineCommand mode s = succeed 0#56 s) ∨
    (∃ sel, selection s = some sel ∧ overCapacity s sel = true ∧ engineCommand mode s = raiseError .capacity s) ∨
    (∃ sel, selection s = some sel ∧ overCapacity s sel = false ∧
      engineCommand mode s = succeed (selectionData sel) (iterate mode s sel)) := by
  unfold engineCommand
  cases h : selection s with
  | none => exact .inl ⟨rfl, rfl⟩
  | some sel =>
    cases hc : overCapacity s sel with
    | true => exact .inr (.inl ⟨sel, rfl, hc, by simp [hc]⟩)
    | false => exact .inr (.inr ⟨sel, rfl, hc, by simp [hc]⟩)

/-! ## The meanings -/

/-- The state changes of a command that succeeds, before its response. -/
def effectOf : Instr → State → State
  | .nop, s => s
  | .openCtx a b, s => newContext a b s
  | .closeCtx, s => dropContext s
  | .setrad r, s => { s with radius := r }
  | .setpos v, s => { s with pos := v }
  | .setsize v, s => { s with size := v }
  | .clrnp, s => { s with numpix := 0#32 }
  | .clrst, s => { s with status := 0#5 }
  | .wrx i v, s => writeX i.toNat v s
  | .wry j v, s => writeY j.toNat v s
  | .rdx _, s => s
  | .rdy _, s => s
  | .rdpix _ _, s => s
  | .rdreg _, s => s
  | .select, s => s
  | .stepd, s => (selection s).elim s (iterate .decode s)
  | .stepe, s => (selection s).elim s (iterate .encode s)

/-- What a command checks before its effect (60_exceptions.md R203, its last two checks). -/
def checksPass : Instr → State → Bool
  | .nop, _ => true
  | .openCtx a b, s => !sizeZero a b && !sizeTooLarge a b s
  | .closeCtx, _ => true
  | .setrad r, _ => r != 0#8
  | .setpos _, _ => true
  | .setsize _, _ => true
  | .clrnp, _ => true
  | .clrst, _ => true
  | .wrx i _, s => s.opened && columnOk i s
  | .wry j _, s => s.opened && rowOk j s
  | .rdx i, s => s.opened && columnOk i s
  | .rdy j, s => s.opened && rowOk j s
  | .rdpix x y, s => s.opened && (columnOk x s && rowOk y s)
  | .rdreg n, _ => (regOfNumber n).isSome
  | .select, s => s.opened
  | .stepd, s => s.opened && (selection s).all fun sel => !overCapacity s sel
  | .stepe, s => s.opened && (selection s).all fun sel => !overCapacity s sel

/-- An engine command on an open context, in terms of its checks and its effect. -/
theorem engine_effect (mode : Mode) (s : State) :
    (((selection s).all fun sel => !overCapacity s sel) = true ∧
      ∃ d, engineCommand mode s = succeed d ((selection s).elim s (iterate mode s))) ∨
    (((selection s).all fun sel => !overCapacity s sel) = false ∧ engineCommand mode s = raiseError .capacity s) := by
  rcases engineCommand_cases mode s with ⟨h, e⟩ | ⟨sel, h, hc, e⟩ | ⟨sel, h, hc, e⟩
  · exact .inl ⟨by simp [h], _, by rw [e, h]; rfl⟩
  · exact .inr ⟨by simp [h, hc], e⟩
  · exact .inl ⟨by simp [h, hc], _, by rw [e, h]; rfl⟩

/-- Everything a meaning can do: a command whose checks pass has its effect and responds with `CODE` 0; another raises one
error. -/
theorem exec_cases (i : Instr) (s : State) :
    (checksPass i s = true ∧ ∃ d, exec i s = .next (succeed d (effectOf i s))) ∨
    (checksPass i s = false ∧ ∃ e, exec i s = .next (raiseError e s)) := by
  cases i with
  | nop => exact .inl ⟨rfl, _, rfl⟩
  | openCtx a b =>
    simp only [checksPass, exec, execOpen, effectOf]
    cases sizeZero a b <;> cases sizeTooLarge a b s <;> simp <;> exact ⟨_, rfl⟩
  | closeCtx => exact .inl ⟨rfl, _, rfl⟩
  | setrad r =>
    simp only [checksPass, exec, execSetrad, effectOf]
    by_cases h : r = 0#8 <;> simp [h] <;> exact ⟨_, rfl⟩
  | setpos v => exact .inl ⟨rfl, _, rfl⟩
  | setsize v => exact .inl ⟨rfl, _, rfl⟩
  | clrnp => exact .inl ⟨rfl, _, rfl⟩
  | clrst => exact .inl ⟨rfl, _, rfl⟩
  | wrx k v =>
    simp only [checksPass, exec, execWrx, effectOf]
    cases h : s.opened <;> cases columnOk k s <;> simp [h] <;> exact ⟨_, rfl⟩
  | wry k v =>
    simp only [checksPass, exec, execWry, effectOf]
    cases h : s.opened <;> cases rowOk k s <;> simp [h] <;> exact ⟨_, rfl⟩
  | rdx k =>
    simp only [checksPass, exec, execRdx, effectOf]
    cases h : s.opened <;> cases columnOk k s <;> simp [h] <;> exact ⟨_, rfl⟩
  | rdy k =>
    simp only [checksPass, exec, execRdy, effectOf]
    cases h : s.opened <;> cases rowOk k s <;> simp [h] <;> exact ⟨_, rfl⟩
  | rdpix x y =>
    simp only [checksPass, exec, execRdpix, effectOf]
    cases h : s.opened <;> cases columnOk x s <;> cases rowOk y s <;> simp [h] <;> exact ⟨_, rfl⟩
  | rdreg n =>
    simp only [checksPass, exec, execRdreg, effectOf]
    cases regOfNumber n <;> simp <;> exact ⟨_, rfl⟩
  | select =>
    simp only [checksPass, exec, execSelect, effectOf]
    cases h : s.opened <;> simp [h] <;> exact ⟨_, rfl⟩
  | stepd =>
    simp only [checksPass, exec, execStepd, effectOf]
    cases h : s.opened with
    | false => simp [h]; exact ⟨_, rfl⟩
    | true => rcases engine_effect .decode s with ⟨hc, d, e⟩ | ⟨hc, e⟩ <;> simp [h, hc, e] <;> exact ⟨_, rfl⟩
  | stepe =>
    simp only [checksPass, exec, execStepe, effectOf]
    cases h : s.opened with
    | false => simp [h]; exact ⟨_, rfl⟩
    | true => rcases engine_effect .encode s with ⟨hc, d, e⟩ | ⟨hc, e⟩ <;> simp [h, hc, e] <;> exact ⟨_, rfl⟩

/-- The same, from a next state. -/
theorem exec_next_cases {i : Instr} {s t : State} (h : exec i s = .next t) :
    (checksPass i s = true ∧ ∃ d, t = succeed d (effectOf i s)) ∨
    (checksPass i s = false ∧ ∃ e, t = raiseError e s) := by
  rcases exec_cases i s with ⟨hc, d, e⟩ | ⟨hc, d, e⟩ <;> rw [e] at h <;> cases h
  · exact .inl ⟨hc, d, rfl⟩
  · exact .inr ⟨hc, d, rfl⟩

/-- Every meaning answers a next state. -/
theorem exec_answers_next (i : Instr) (s : State) : ∃ t, exec i s = .next t := by
  rcases exec_cases i s with ⟨_, _, e⟩ | ⟨_, _, e⟩ <;> exact ⟨_, e⟩

/-! ## The step -/

/-- A step with a word on the channel. -/
theorem step_cons {s : State} {w : CmdWord} {rest : List CmdWord} (h : s.cmds = w :: rest) :
    step s = match decode w with
      | .ok i => exec i { s with cmds := rest }
      | .error _ => .next (raiseError .illegal { s with cmds := rest }) := by
  cases hd : decode w <;> simp [step, nextCommand, h, illegalWord, hd]

/-- A step with no word on the channel. -/
theorem step_nil {s : State} (h : s.cmds = []) : step s = .next s := by simp only [step, nextCommand, h, idle]

/-- Everything a step can do: wait, perform the decoded command, or end a word that is no command with `E_ILLEGAL`. -/
theorem step_cases {s t : State} (h : step s = .next t) :
    (s.cmds = [] ∧ t = s) ∨
    (∃ w rest i, s.cmds = w :: rest ∧ decode w = .ok i ∧ exec i { s with cmds := rest } = .next t) ∨
    (∃ w rest e, s.cmds = w :: rest ∧ decode w = .error e ∧ t = raiseError .illegal { s with cmds := rest }) := by
  cases hc : s.cmds with
  | nil => rw [step_nil hc] at h; cases h; exact .inl ⟨rfl, rfl⟩
  | cons w rest =>
    rw [step_cons hc] at h
    cases hd : decode w with
    | ok i => rw [hd] at h; exact .inr (.inl ⟨w, rest, i, rfl, hd, h⟩)
    | error e => rw [hd] at h; cases h; exact .inr (.inr ⟨w, rest, e, rfl, hd, rfl⟩)

end Sys2Proof.Machine
end

