-- ==== Sys2Proof/Laws/PerInstr.lean ====
section
/-! SUPPORT. What holds of every command as syntax, one lemma per constructor. -/

namespace Sys2Proof.Laws.EncodedWord

/-- The word of a command carries its opcode in `OP` and has no reserved bit of its format set (30_encoding.md R80, R81,
R83). -/
def Statement (i : Instr) : Prop := fieldOp (encode i) = i.op.code ∧ encode i &&& i.op.format.reservedMask = 0#64

theorem nop : Statement .nop := ⟨by decide, by decide⟩

theorem openCtx (w h : BitVec 16) : Statement (.openCtx w h) := by
  refine ⟨?_, (reserved_clear_iff _ _).mpr ?_⟩ <;>
    simp only [fieldOp, encode, Instr.op, Op.format, extractLsb'_or] <;>
    repeat first
      | rw [extractLsb'_placeField_same _ (by omega)]
      | rw [extractLsb'_placeField_above _ (by omega)]
      | rw [extractLsb'_placeField_below _ (by omega)]
      | simp

theorem closeCtx : Statement .closeCtx := ⟨by decide, by decide⟩

theorem setrad (r : BitVec 8) : Statement (.setrad r) := by
  refine ⟨?_, (reserved_clear_iff _ _).mpr ?_⟩ <;>
    simp only [fieldOp, encode, Instr.op, Op.format, extractLsb'_or] <;>
    repeat first
      | rw [extractLsb'_placeField_same _ (by omega)]
      | rw [extractLsb'_placeField_above _ (by omega)]
      | rw [extractLsb'_placeField_below _ (by omega)]
      | simp

theorem setpos (v : BitVec 32) : Statement (.setpos v) := by
  refine ⟨?_, (reserved_clear_iff _ _).mpr ?_⟩ <;>
    simp only [fieldOp, encode, Instr.op, Op.format, extractLsb'_or] <;>
    repeat first
      | rw [extractLsb'_placeField_same _ (by omega)]
      | rw [extractLsb'_placeField_above _ (by omega)]
      | rw [extractLsb'_placeField_below _ (by omega)]
      | simp

theorem setsize (v : BitVec 32) : Statement (.setsize v) := by
  refine ⟨?_, (reserved_clear_iff _ _).mpr ?_⟩ <;>
    simp only [fieldOp, encode, Instr.op, Op.format, extractLsb'_or] <;>
    repeat first
      | rw [extractLsb'_placeField_same _ (by omega)]
      | rw [extractLsb'_placeField_above _ (by omega)]
      | rw [extractLsb'_placeField_below _ (by omega)]
      | simp

theorem clrnp : Statement .clrnp := ⟨by decide, by decide⟩

theorem clrst : Statement .clrst := ⟨by decide, by decide⟩

theorem wrx (i : BitVec 16) (v : BitVec 24) : Statement (.wrx i v) := by
  refine ⟨?_, (reserved_clear_iff _ _).mpr ?_⟩ <;>
    simp only [fieldOp, encode, Instr.op, Op.format, extractLsb'_or] <;>
    repeat first
      | rw [extractLsb'_placeField_same _ (by omega)]
      | rw [extractLsb'_placeField_above _ (by omega)]
      | rw [extractLsb'_placeField_below _ (by omega)]
      | simp

theorem wry (j : BitVec 16) (v : BitVec 24) : Statement (.wry j v) := by
  refine ⟨?_, (reserved_clear_iff _ _).mpr ?_⟩ <;>
    simp only [fieldOp, encode, Instr.op, Op.format, extractLsb'_or] <;>
    repeat first
      | rw [extractLsb'_placeField_same _ (by omega)]
      | rw [extractLsb'_placeField_above _ (by omega)]
      | rw [extractLsb'_placeField_below _ (by omega)]
      | simp

theorem rdx (i : BitVec 16) : Statement (.rdx i) := by
  refine ⟨?_, (reserved_clear_iff _ _).mpr ?_⟩ <;>
    simp only [fieldOp, encode, Instr.op, Op.format, extractLsb'_or] <;>
    repeat first
      | rw [extractLsb'_placeField_same _ (by omega)]
      | rw [extractLsb'_placeField_above _ (by omega)]
      | rw [extractLsb'_placeField_below _ (by omega)]
      | simp

theorem rdy (j : BitVec 16) : Statement (.rdy j) := by
  refine ⟨?_, (reserved_clear_iff _ _).mpr ?_⟩ <;>
    simp only [fieldOp, encode, Instr.op, Op.format, extractLsb'_or] <;>
    repeat first
      | rw [extractLsb'_placeField_same _ (by omega)]
      | rw [extractLsb'_placeField_above _ (by omega)]
      | rw [extractLsb'_placeField_below _ (by omega)]
      | simp

theorem rdpix (x y : BitVec 16) : Statement (.rdpix x y) := by
  refine ⟨?_, (reserved_clear_iff _ _).mpr ?_⟩ <;>
    simp only [fieldOp, encode, Instr.op, Op.format, extractLsb'_or] <;>
    repeat first
      | rw [extractLsb'_placeField_same _ (by omega)]
      | rw [extractLsb'_placeField_above _ (by omega)]
      | rw [extractLsb'_placeField_below _ (by omega)]
      | simp

theorem rdreg (n : BitVec 8) : Statement (.rdreg n) := by
  refine ⟨?_, (reserved_clear_iff _ _).mpr ?_⟩ <;>
    simp only [fieldOp, encode, Instr.op, Op.format, extractLsb'_or] <;>
    repeat first
      | rw [extractLsb'_placeField_same _ (by omega)]
      | rw [extractLsb'_placeField_above _ (by omega)]
      | rw [extractLsb'_placeField_below _ (by omega)]
      | simp

theorem select : Statement .select := ⟨by decide, by decide⟩

theorem stepd : Statement .stepd := ⟨by decide, by decide⟩

theorem stepe : Statement .stepe := ⟨by decide, by decide⟩

end Sys2Proof.Laws.EncodedWord
end

