-- ==== Sys2Proof/Laws/Rulers.lean ====
section
/-! SUPPORT. The laws of the rulers: entries, the selector, the two loops of `expand`, and rebalancing. -/

namespace Sys2Proof.Machine

/-! ## Entries -/

/-- An entry has 24 bits (10_state.md R31). -/
theorem entry_lt (p : Ruler) (k : Nat) : entry p k < 2 ^ 24 := (p.getD k 0#24).isLt

/-- An entry that does not exist is 0. -/
theorem entry_of_length_le {p : Ruler} {k : Nat} (h : p.length ≤ k) : entry p k = 0 := by
  rw [entry, List.getD_eq_default _ _ h]; rfl

/-- An entry that exists. -/
theorem entry_of_lt {p : Ruler} {k : Nat} (h : k < p.length) : entry p k = p[k].toNat := by
  rw [entry, List.getD_eq_getElem _ _ h]

/-! ## The selector -/

/-- One step of the first-maximum search (41_engine.md R151). -/
theorem worst_succ (p : Ruler) (k : Nat) :
    worst p (k + 1) = if (worst p k).1 < entry p k then (entry p k, k) else worst p k := rfl

/-- Everything the selector can answer (41_engine.md R152, R153). -/
theorem selection_cases (s : State) :
    let wx := worst s.xErr s.w.toNat
    let wy := worst s.yErr s.h.toNat
    (wx.1 = 0 ∧ wy.1 = 0 ∧ selection s = none) ∨
    (wy.1 < wx.1 ∧ selection s = some { axis := .col, pivot := wx.2, maxErr := entry s.xErr wx.2 }) ∨
    (wx.1 ≤ wy.1 ∧ 0 < wy.1 ∧ selection s = some { axis := .row, pivot := wy.2, maxErr := entry s.yErr wy.2 }) := by
  simp only [selection]
  split
  · exact Or.inl ⟨by omega, by omega, rfl⟩
  · split
    · next h => exact Or.inr (Or.inl ⟨h, rfl⟩)
    · exact Or.inr (Or.inr ⟨by omega, by omega, rfl⟩)

/-! ## The loops of `expand` -/

/-- Everything the left loop can do: it moves at most `steps` to the left, over non-zero entries only, and stops early only at
the edge or before a zero entry (41_engine.md R156). -/
theorem expandLeft_spec (p : Ruler) (steps lo : Nat) :
    expandLeft p steps lo ≤ lo ∧ lo - steps ≤ expandLeft p steps lo ∧
      (∀ k, expandLeft p steps lo ≤ k → k < lo → entry p k ≠ 0) ∧
      (0 < expandLeft p steps lo → lo - expandLeft p steps lo < steps → entry p (expandLeft p steps lo - 1) = 0) := by
  induction steps generalizing lo with
  | zero => exact ⟨le_rfl, by simp [expandLeft], by intro k h1 h2; simp only [expandLeft] at h1; omega, by omega⟩
  | succ n ih =>
    simp only [expandLeft]
    split
    · next h =>
      obtain ⟨i1, i2, i3, i4⟩ := ih (lo - 1)
      refine ⟨by omega, by omega, ?_, ?_⟩
      · intro k h1 h2
        rcases Nat.lt_or_ge k (lo - 1) with hk | hk
        · exact i3 k h1 hk
        · rw [show k = lo - 1 by omega]; exact h.2
      · intro h1 h2; exact i4 h1 (by omega)
    · next h =>
      refine ⟨le_rfl, by omega, by intro k h1 h2; omega, ?_⟩
      intro h1 _
      by_contra hne
      exact h ⟨h1, hne⟩

/-- Everything the right loop can do (41_engine.md R156). -/
theorem expandRight_spec (p : Ruler) (n steps hi : Nat) (hn : hi < n) :
    hi ≤ expandRight p n steps hi ∧ expandRight p n steps hi ≤ hi + steps ∧ expandRight p n steps hi < n ∧
      (∀ k, hi < k → k ≤ expandRight p n steps hi → entry p k ≠ 0) ∧
      (expandRight p n steps hi + 1 < n → expandRight p n steps hi - hi < steps →
        entry p (expandRight p n steps hi + 1) = 0) := by
  induction steps generalizing hi with
  | zero => exact ⟨le_rfl, le_rfl, hn, by intro k h1 h2; simp only [expandRight] at h2; omega, by omega⟩
  | succ m ih =>
    simp only [expandRight]
    split
    · next h =>
      obtain ⟨i1, i2, i3, i4, i5⟩ := ih (hi + 1) h.1
      refine ⟨by omega, by omega, i3, ?_, ?_⟩
      · intro k h1 h2
        rcases Nat.lt_or_ge (hi + 1) k with hk | hk
        · exact i4 k hk h2
        · rw [show k = hi + 1 by omega]; exact h.2
      · intro h1 h2; exact i5 h1 (by omega)
    · next h =>
      refine ⟨le_rfl, by omega, hn, by intro k h1 h2; omega, ?_⟩
      intro h1 _
      by_contra hne
      exact h ⟨h1, hne⟩

/-! ## Rebalancing -/

/-- A rescaled entry is never 0 (41_engine.md R161). -/
theorem rescaled_pos (x d r : Nat) : 1 ≤ rescaled x d r := by
  unfold rescaled; split <;> omega

/-- Rebalancing keeps the ruler's length. -/
@[simp] theorem rebalance_length (p : Ruler) (rng : Range) (c r : Nat) : (rebalance p rng c r).length = p.length := by
  simp [rebalance]

/-- Every entry after rebalancing, from its own old value. -/
theorem rebalance_getElem? (p : Ruler) (rng : Range) (c r k : Nat) :
    (rebalance p rng c r)[k]? = p[k]?.map fun x => rebalancedEntry rng c r k x := by
  simp [rebalance]

/-- Every entry after rebalancing, as a number. -/
theorem entry_rebalance {p : Ruler} {rng : Range} {c r k : Nat} (h : k < p.length) :
    entry (rebalance p rng c r) k = (rebalancedEntry rng c r k p[k]).toNat := by
  rw [entry_of_lt (by simpa using h)]
  simp [rebalance]

end Sys2Proof.Machine
end

