-- ==== Sys2Proof/Machine/Assembler.lean ====
section
/-! DEFINITION. The assembler on text: one line of the spec's assembly syntax (30_encoding.md R90) as characters. Where
R90 is silent on spelling, log entry 7 says what the model reads. -/

namespace Sys2Proof.Machine

/-- The characters before the comment: "A `;` starts a comment" (30_encoding.md R90). -/
def dropComment : List Char → List Char
  | [] => []
  | c :: cs => if c = ';' then [] else c :: dropComment cs

/-- The pieces between the separator characters. -/
def piecesOf (sep : Char) : List Char → List (List Char)
  | [] => [[]]
  | c :: cs =>
    if c = sep then [] :: piecesOf sep cs
    else
      match piecesOf sep cs with
      | [] => [[c]]
      | p :: ps => (c :: p) :: ps

/-- The characters without the blanks at either end. -/
def trimBlanks (cs : List Char) : List Char :=
  ((cs.dropWhile fun c => c == ' ').reverse.dropWhile fun c => c == ' ').reverse

/-- The value of a digit. -/
def digitOf (c : Char) : Option Nat :=
  if '0' ≤ c ∧ c ≤ '9' then some (c.toNat - '0'.toNat)
  else if 'a' ≤ c ∧ c ≤ 'f' then some (c.toNat - 'a'.toNat + 10)
  else if 'A' ≤ c ∧ c ≤ 'F' then some (c.toNat - 'A'.toNat + 10)
  else none

/-- The number that digits of a base continue from `acc`. -/
def digitsFrom (base : Nat) : Nat → List Char → Option Nat
  | acc, [] => some acc
  | acc, c :: cs =>
    match digitOf c with
    | some d => if d < base then digitsFrom base (acc * base + d) cs else none
    | none => none

/-- A number: "decimal, or hexadecimal with prefix `0x`" (30_encoding.md R90). -/
def numberOf : List Char → Option Nat
  | [] => none
  | '0' :: 'x' :: [] => none
  | '0' :: 'x' :: cs => digitsFrom 16 0 cs
  | cs => digitsFrom 10 0 cs

/-- All numbers of a list of operands. -/
def numbersOf : List (List Char) → Option (List Nat)
  | [] => some []
  | p :: ps =>
    match numberOf (trimBlanks p), numbersOf ps with
    | some n, some ns => some (n :: ns)
    | _, _ => none

/-- The register names of `RDREG` (30_encoding.md R90). -/
def regNames : List (List Char × RegName) :=
  [("STATUS".toList, .status), ("OPENED".toList, .opened), ("W".toList, .w), ("H".toList, .h),
   ("RADIUS".toList, .radius), ("POS".toList, .pos), ("SIZE".toList, .size), ("NUMPIX".toList, .numpix),
   ("MAX_W".toList, .maxW), ("MAX_H".toList, .maxH)]

/-- A line with its numbers read: the mnemonic says how many there are (30_encoding.md R90, R91). -/
def lineOf (mnemonic : List Char) (ns : List Nat) : Option Asm :=
  match String.ofList mnemonic, ns with
  | "NOP", [] => some .nop
  | "OPEN", [a, b] => some (.openCtx a b)
  | "CLOSE", [] => some .closeCtx
  | "SETRAD", [r] => some (.setrad r)
  | "SETPOS", [v] => some (.setpos v)
  | "SETSIZE", [v] => some (.setsize v)
  | "CLRNP", [] => some .clrnp
  | "CLRST", [] => some .clrst
  | "WRX", [i, v] => some (.wrx i v)
  | "WRY", [j, v] => some (.wry j v)
  | "RDX", [i] => some (.rdx i)
  | "RDY", [j] => some (.rdy j)
  | "RDPIX", [x, y] => some (.rdpix x y)
  | "RDREG", [n] => some (.rdreg n)
  | "SELECT", [] => some .select
  | "STEPD", [] => some .stepd
  | "STEPE", [] => some .stepe
  | "LOADX", v :: vs => some (.loadx (v :: vs))
  | "LOADY", v :: vs => some (.loady (v :: vs))
  | _, _ => none

/-- A mnemonic and the text of its operands; a register's name may stand for `RDREG`'s number (30_encoding.md R90). -/
def commandOf (mnemonic operands : List Char) : Option Asm :=
  if mnemonic = "RDREG".toList ∧ (regNames.lookup operands).isSome then
    (regNames.lookup operands).map .rdregName
  else if operands = [] then lineOf mnemonic []
  else
    match numbersOf (piecesOf ',' operands) with
    | some ns => lineOf mnemonic ns
    | none => none

/-- The command words of one line of text: none for a blank line; the whole is `none` where the line is no command or an
operand does not fit (30_encoding.md R90). -/
def assembleLine (line : List Char) : Option (List CmdWord) :=
  let text := trimBlanks (dropComment line)
  if text = [] then some []
  else
    let mnemonic := text.takeWhile fun c => c != ' '
    match commandOf mnemonic (trimBlanks (text.drop mnemonic.length)) with
    | some a => assemble a
    | none => none

end Sys2Proof.Machine
end

