-- ==== Sys2Proof/Tests/Slice0.lean ====
section
/-! SUPPORT. The model's own tests: the words of 30_encoding.md and the vectors of 95_test_vectors.md, and for every statement with
hypotheses a concrete state and operands that meet them all. Expected values are the spec's. -/

namespace Sys2Proof.Tests

open Sys2Proof Sys2Proof.Machine

/-! ## Helpers -/

/-- One field of the next state. -/
def after {α : Type} (o : Host.Outcome State Fault Refusal) (f : State → α) : Option α :=
  match o with
  | .next t => some (f t)
  | .fault _ => none
  | .refused _ => none

/-- The last response. -/
def answer (s : State) : RspWord := s.rsps.headD 0#64

/-- An open context of `a` columns and `b` rows, straight after reset. -/
def opened (a b : BitVec 16) : State := newContext a b State.reset

/-- P1 of 95_test_vectors.md before its first `STEPD`, with one sample in the packet. -/
def p1 : State :=
  { opened 5#16 3#16 with
    radius := 2#8
    size := 45#32
    xErr := [10#24, 20#24, 40#24, 20#24, 10#24]
    yErr := [30#24, 0#24, 30#24]
    pkt := [(0, 0xC8#8), (1, 0x64#8), (2, 0x00#8)] }

/-- P2 of 95_test_vectors.md before its second `STEPE`. -/
def p2 : State :=
  { opened 1#16 1#16 with
    radius := 1#8
    size := 3#32
    xErr := [321#24]
    yErr := [0#24]
    tgt := [(0, ⟨10#8, 20#8, 30#8⟩)] }

/-- Selection of P1, step 1. -/
def sel1 : Selection := { axis := .col, pivot := 2, maxErr := 40 }

/-- Selection of P2, second `STEPE`. -/
def sel2 : Selection := { axis := .col, pivot := 0, maxErr := 321 }

/-- A row-major state: `OPEN 1, 1`, both rulers 5 (L2-11). -/
def rowMajor : State := { opened 1#16 1#16 with xErr := [5#24], yErr := [5#24] }

/-- P1 of 95_test_vectors.md between its first and its second `STEPD`, over a gray canvas: row-major, with one cross point. -/
def p1Row : State :=
  { p1 with
    pos := 3#32
    xErr := [10#24, 10#24, 0#24, 10#24, 10#24]
    pkt := [(3, 0x32#8), (4, 0x3C#8), (5, 0x46#8)] }

/-- Selection of P1, step 2. -/
def selRow : Selection := { axis := .row, pivot := 0, maxErr := 30 }

/-- A state with one word on the command channel. -/
def withWord (w : CmdWord) (s : State) : State := { s with cmds := [w] }

/-! ## WellFormed: an ill-formed line for each check (30_encoding.md R90, R91) -/

theorem test_wf_open_width : (Asm.openCtx 65536 1).wellFormed = false := by decide
theorem test_wf_open_height : (Asm.openCtx 1 65536).wellFormed = false := by decide
theorem test_wf_setrad : (Asm.setrad 256).wellFormed = false := by decide
theorem test_wf_setpos : (Asm.setpos 4294967296).wellFormed = false := by decide
theorem test_wf_setsize : (Asm.setsize 4294967296).wellFormed = false := by decide
theorem test_wf_wrx_index : (Asm.wrx 65536 0).wellFormed = false := by decide
theorem test_wf_wrx_value : (Asm.wrx 0 16777216).wellFormed = false := by decide
theorem test_wf_wry_index : (Asm.wry 65536 0).wellFormed = false := by decide
theorem test_wf_wry_value : (Asm.wry 0 16777216).wellFormed = false := by decide
theorem test_wf_rdx : (Asm.rdx 65536).wellFormed = false := by decide
theorem test_wf_rdy : (Asm.rdy 65536).wellFormed = false := by decide
theorem test_wf_rdpix_column : (Asm.rdpix 65536 0).wellFormed = false := by decide
theorem test_wf_rdpix_row : (Asm.rdpix 0 65536).wellFormed = false := by decide
theorem test_wf_rdreg : (Asm.rdreg 256).wellFormed = false := by decide
theorem test_wf_loadx_value : (Asm.loadx [0, 16777216]).wellFormed = false := by decide
theorem test_wf_loadx_empty : (Asm.loadx []).wellFormed = false := by decide
theorem test_wf_loadx_long : (Asm.loadx (List.replicate 65537 0)).wellFormed = false := by
  simp only [Asm.wellFormed, fitsRuler, List.length_replicate]; decide +kernel
theorem test_wf_loady_value : (Asm.loady [16777216]).wellFormed = false := by decide
theorem test_wf_loady_empty : (Asm.loady []).wellFormed = false := by decide

/-! ## Decoding: the words of 30_encoding.md §5 and of L2-1 -/

theorem test_decode_nop : decode 0x0000000000000000#64 = .ok .nop := by decide
theorem test_decode_open : decode 0x0100050003000000#64 = .ok (.openCtx 5#16 3#16) := by decide
theorem test_decode_close : decode 0x0200000000000000#64 = .ok .closeCtx := by decide
theorem test_decode_setrad : decode 0x03000000000000FF#64 = .ok (.setrad 255#8) := by decide
theorem test_decode_setpos : decode 0x0400000012345678#64 = .ok (.setpos 0x12345678#32) := by decide
theorem test_decode_setsize : decode 0x0500000000000030#64 = .ok (.setsize 48#32) := by decide
theorem test_decode_clrnp : decode 0x0600000000000000#64 = .ok .clrnp := by decide
theorem test_decode_clrst : decode 0x0700000000000000#64 = .ok .clrst := by decide
theorem test_decode_wrx : decode 0x0800000000000141#64 = .ok (.wrx 0#16 321#24) := by decide
theorem test_decode_wry : decode 0x0900020000FFFFFF#64 = .ok (.wry 2#16 0xFFFFFF#24) := by decide
theorem test_decode_rdx : decode 0x0A00030000000000#64 = .ok (.rdx 3#16) := by decide
theorem test_decode_rdy : decode 0x0B12340000000000#64 = .ok (.rdy 0x1234#16) := by decide
theorem test_decode_rdpix : decode 0x0C00020001000000#64 = .ok (.rdpix 2#16 1#16) := by decide
theorem test_decode_rdreg : decode 0x0D00000000000007#64 = .ok (.rdreg 7#8) := by decide
theorem test_decode_select : decode 0x0E00000000000000#64 = .ok .select := by decide
theorem test_decode_stepd : decode 0x0F00000000000000#64 = .ok .stepd := by decide
theorem test_decode_stepe : decode 0x1000000000000000#64 = .ok .stepe := by decide

theorem test_illegal_nop : decode 0x0000000000000001#64 = .error (.reservedBits .nop) := by decide
theorem test_illegal_open : decode 0x0100010001000001#64 = .error (.reservedBits .openCtx) := by decide
theorem test_illegal_setrad : decode 0x0300000000000100#64 = .error (.reservedBits .setrad) := by decide
theorem test_illegal_setpos : decode 0x0400000100000000#64 = .error (.reservedBits .setpos) := by decide
theorem test_illegal_wrx : decode 0x0800000001000000#64 = .error (.reservedBits .wrx) := by decide
theorem test_illegal_rdx : decode 0x0A00000000000001#64 = .error (.reservedBits .rdx) := by decide
theorem test_illegal_first : decode 0x1100000000000000#64 = .error (.reservedOpcode 0x11#8) := by decide
theorem test_illegal_last : decode 0xFF00000000000000#64 = .error (.reservedOpcode 0xFF#8) := by decide

/-- The byte order of 30_encoding.md R93, on its example. -/
theorem test_byte_channel : wordBytes 0x0100010001000000#64 = [0#8, 0#8, 0#8, 1#8, 0#8, 1#8, 0#8, 1#8] := by decide

/-- Bytes that are no word are refused by name. -/
theorem test_bytes_wrong_length : decodeBytes [0#8, 0#8, 0#8] = .error (.wrongLength 3) := by decide

/-! ## The assembler (30_encoding.md R90, R91) -/

theorem test_assemble_wrx : assembleLine "WRX 0, 321 ; first entry".toList = some [0x0800000000000141#64] := by
  decide +kernel
theorem test_assemble_open : assembleLine "OPEN 5, 3".toList = some [0x0100050003000000#64] := by decide +kernel
theorem test_assemble_rdpix : assembleLine "RDPIX 2, 1".toList = some [0x0C00020001000000#64] := by decide +kernel
theorem test_assemble_hex : assembleLine "WRY 2, 0xFFFFFF".toList = some [0x0900020000FFFFFF#64] := by decide +kernel
theorem test_assemble_register : assembleLine "RDREG NUMPIX".toList = some [0x0D00000000000007#64] := by decide +kernel
theorem test_assemble_loady :
    assembleLine "LOADY 30, 0, 30".toList =
      some [0x090000000000001E#64, 0x0900010000000000#64, 0x090002000000001E#64] := by decide +kernel
theorem test_assemble_loadx_refuses : assembleLine "LOADX 1, 0x1000000".toList = none := by decide +kernel
theorem test_assemble_refuses : assembleLine "SETRAD 256".toList = none := by decide +kernel
theorem test_assemble_comment : assembleLine "; nothing".toList = some [] := by decide +kernel

/-! ## Commands, one step each (L2-2, L2-3, L2-4, L2-11, P1, P2, P3) -/

theorem test_nop : after (exec .nop p1) answer = some 0#64 := by decide
theorem test_open_zero : after (exec (.openCtx 0#16 5000#16) State.reset) (fun t => (answer t, t.status, t.opened)) =
    some (0x0300000000000000#64, 4#5, false) := by decide
theorem test_open_small : after (exec (.openCtx 3#16 1#16) (opened 2#16 2#16)) (fun t => (t.w, t.h, t.xErr, t.radius)) =
    some (3#16, 1#16, [0#24, 0#24, 0#24], 5#8) := by decide
theorem test_close_keeps_radius : after (exec .closeCtx p1) (fun t => (t.opened, t.w, t.radius, t.size)) =
    some (false, 0#16, 2#8, 45#32) := by decide
theorem test_setrad_zero : after (exec (.setrad 0#8) State.reset) (fun t => (answer t, t.radius)) =
    some (0x0300000000000000#64, 5#8) := by decide
theorem test_setrad_max : after (exec (.setrad 255#8) State.reset) (fun t => (answer t, t.radius)) =
    some (0#64, 255#8) := by decide
theorem test_setpos : after (exec (.setpos 0xFFFFFFFF#32) State.reset) (fun t => (t.pos, t.size)) =
    some (0xFFFFFFFF#32, 0#32) := by decide
theorem test_setsize : after (exec (.setsize 48#32) State.reset) (fun t => (t.pos, t.size)) =
    some (0#32, 48#32) := by decide
theorem test_clrnp : after (exec .clrnp { p1 with numpix := 3#32 }) (fun t => t.numpix) = some 0#32 := by decide
theorem test_clrst : after (exec .clrst { p1 with status := 0x10#5 }) (fun t => t.status) = some 0#5 := by decide
theorem test_wrx_last : after (exec (.wrx 1#16 0xFFFFFF#24) (opened 2#16 3#16)) (fun t => (t.xErr, t.yErr)) =
    some ([0#24, 0xFFFFFF#24], [0#24, 0#24, 0#24]) := by decide
theorem test_wrx_edge : after (exec (.wrx 2#16 1#24) (opened 2#16 3#16)) answer = some 0x0300000000000000#64 := by decide
theorem test_wry_last : after (exec (.wry 2#16 7#24) (opened 2#16 3#16)) (fun t => (t.xErr, t.yErr)) =
    some ([0#24, 0#24], [0#24, 0#24, 7#24]) := by decide
theorem test_wry_closed : after (exec (.wry 5#16 1#24) State.reset) answer = some 0x0200000000000000#64 := by decide
theorem test_rdx : after (exec (.rdx 2#16) p1) answer = some 40#64 := by decide
theorem test_rdy_edge : after (exec (.rdy 3#16) p1) answer = some 0x0300000000000000#64 := by decide
theorem test_rdpix_last : after (exec (.rdpix 1#16 2#16) (opened 2#16 3#16)) answer =
    some 0x00000000FF7F7F7F#64 := by decide
theorem test_rdpix_edge : after (exec (.rdpix 0#16 3#16) (opened 2#16 3#16)) answer =
    some 0x0300000000000000#64 := by decide
theorem test_rdreg_size : after (exec (.rdreg 6#8) p1) answer = some 45#64 := by decide
theorem test_rdreg_ten : after (exec (.rdreg 10#8) p1) (fun t => (answer t, t.status)) =
    some (0x0300000000000000#64, 4#5) := by decide
theorem test_select_p1 : after (exec .select p1) answer = some 0x0000002800020003#64 := by decide +kernel
theorem test_select_tie : after (exec .select { opened 4#16 2#16 with
    xErr := [5#24, 9#24, 9#24, 2#24], yErr := [9#24, 1#24] }) answer = some 0x0000000900000001#64 := by decide +kernel
theorem test_stepd_p1 : after (exec .stepd p1) (fun t => (answer t, t.xErr, t.pos, t.canvas.headD [])) =
    some (0x0000002800020003#64, [10#24, 10#24, 0#24, 10#24, 10#24], 3#32,
      [gray, ⟨163#8, 113#8, 63#8⟩, ⟨172#8, 110#8, 47#8⟩, ⟨163#8, 113#8, 63#8⟩, gray]) := by decide +kernel
theorem test_stepd_row_without_samples : after (exec .stepd rowMajor) (fun t => (answer t, t.xErr, t.yErr, t.pos)) =
    some (0x0000000500000001#64, [5#24], [0#24], 0#32) := by decide +kernel
theorem test_stepe_p2 : after (exec .stepe p2) (fun t => (answer t, t.pkt, t.numpix, pixel t 0 0)) =
    some (0x0000014100000003#64, [(0, 0x0A#8), (1, 0x14#8), (2, 0x1E#8)], 1#32, ⟨10#8, 20#8, 30#8⟩) := by
  decide +kernel
theorem test_stepe_over_capacity : after (exec .stepe { p2 with size := 2#32 }) (fun t =>
    (answer t, t.pkt, t.numpix, t.status)) = some (0x0500000000000000#64, [], 0#32, 0x10#5) := by decide +kernel

/-- A reserved bit is checked before the open context (L2-1). -/
theorem test_step_illegal : after (step (withWord 0x0F00000000000001#64 State.reset)) (fun t => (answer t, t.status)) =
    some (0x0100000000000000#64, 1#5) := by decide

/-! ## The parts of the engine (L2-5 to L2-10) -/

theorem test_expand : expand [3#24, 0#24, 7#24, 8#24, 9#24, 4#24, 0#24] 7 2 4 = { lo := 2, hi := 5 } := by decide
theorem test_expand_edge : expand (List.replicate 8 5#24) 8 3 7 = { lo := 4, hi := 7 } := by decide
theorem test_scale_tie : scale 5 1 2 = 2 ∧ scale 7 1 2 = 4 := by decide +kernel
theorem test_scale_order : scale 5592409 3 3 = 5592409 := by decide +kernel
theorem test_rebalance : rebalance (List.replicate 9 1#24) { lo := 0, hi := 8 } 4 4 =
    [1#24, 1#24, 1#24, 1#24, 0#24, 1#24, 1#24, 1#24, 1#24] := by decide +kernel
theorem test_fill_alpha : insideDisk 2 2 = true ∧ insideDisk 4 2 = false ∧ fillAlpha 4 2 = 0 := by decide +kernel
theorem test_alpha : blendAlpha 1 0 3 = 213 ∧ blendAlpha 1 0 256 = 256 ∧ blendAlpha 3 0 256 = 254 ∧
    blendAlpha 100 100 100 = 0 := by decide +kernel
theorem test_blend : blendPixel ⟨50#8, 60#8, 70#8⟩ ⟨163#8, 113#8, 63#8⟩ 213 = ⟨68#8, 68#8, 68#8⟩ := by decide

/-! ## Witnesses: the hypotheses of each statement, met together -/

theorem witness_EncodeOfDecode : decode 0x0C00020001000000#64 = .ok (.rdpix 2#16 1#16) := by decide

theorem witness_OpcodeTableDecides_match : (0x0300000000000001#64 &&& Op.setrad.matchMask = Op.setrad.matchWord) := by
  decide

theorem witness_OpcodeTableDecides_reserved : 0x10 < ((0x1100000000000000#64).extractLsb' 56 8).toNat := by decide

theorem witness_IllegalWord_reserved_opcode :
    (withWord 0x1100000000000000#64 p1).cmds = [0x1100000000000000#64] ∧
      0x11 ≤ ((0x1100000000000000#64).extractLsb' 56 8).toNat := by decide

theorem witness_IllegalWord_reserved_bits :
    (withWord 0x0800000001000000#64 State.reset).cmds = [0x0800000001000000#64] ∧
      (0x0800000001000000#64).extractLsb' 56 8 = Op.wrx.code ∧
      0x0800000001000000#64 &&& Op.wrx.format.reservedMask ≠ 0#64 := by decide

theorem witness_LoadRulersExpand :
    [10, 16777215] ≠ ([] : List Nat) ∧ [10, 16777215].length ≤ 65536 ∧ ∀ v ∈ [10, 16777215], v < 2 ^ 24 := by decide

/-- The lowest number that each field refuses. -/
theorem witness_AssembledNumbers_refused :
    (65536 ≤ 65536 ∨ 65536 ≤ 0) ∧ (65536 ≤ 0 ∨ 2 ^ 24 ≤ 16777216) ∧ 256 ≤ 256 ∧ 2 ^ 32 ≤ 4294967296 := by decide

theorem witness_AssembledNumbers_refused_list :
    ((∃ v ∈ [0, 16777216], 2 ^ 24 ≤ v) ∨ 65536 < [0, 16777216].length) ∧ 65536 < (List.replicate 65537 0).length :=
  ⟨by decide, by rw [List.length_replicate]; decide⟩

theorem witness_AssembledNumbers_accepted : assemble (.openCtx 5 3) = some [0x0100050003000000#64] := by decide

theorem witness_StepRunsTheDecodedCommand :
    (withWord 0x0D00000000000007#64 p1).cmds = [0x0D00000000000007#64] ∧
      decode 0x0D00000000000007#64 = .ok (.rdreg 7#8) ∧ 0x0D00000000000007 < 2 ^ 64 ∧
      decodeTableWord 64 0x0D00000000000007 = some (.rdreg 7#8) := by decide

theorem witness_OneResponsePerCommand : (withWord 0xFF00000000000000#64 p1).cmds = [0xFF00000000000000#64] := by decide

theorem witness_BlockWaitsForACommand : State.reset.cmds = [] ∧ p1.cmds = [] := by decide

theorem witness_StepKeepsTheInvariant :
    Inv (withWord 0x0F00000000000000#64 p1) ∧ ∃ t, step (withWord 0x0F00000000000000#64 p1) = .next t :=
  ⟨by decide, _, rfl⟩

theorem witness_CloseSequence :
    ({ p1 with cmds := [.closeCtx, .clrst, .setrad 5#8, .setpos 0#32, .setsize 0#32, .clrnp].map encode } : State).cmds =
      [.closeCtx, .clrst, .setrad 5#8, .setpos 0#32, .setsize 0#32, .clrnp].map encode := rfl

/-- The hypotheses of `RunsWord` and `IllegalWords`, for every command: its word on the channel, and a word of its opcode with
reserved bits set (every format has some). -/
theorem witness_CommandWords :
    ∀ op ∈ opTable, (withWord op.matchWord p1).cmds = [op.matchWord] ∧
      (withWord (op.matchWord ||| op.format.reservedMask) p1).cmds = [op.matchWord ||| op.format.reservedMask] ∧
      (op.matchWord ||| op.format.reservedMask).extractLsb' 56 8 = op.code ∧
      (op.matchWord ||| op.format.reservedMask) &&& op.format.reservedMask ≠ 0#64 := by decide

theorem witness_OpenCommand_resource :
    (4097#16 : BitVec 16) ≠ 0#16 ∧ (1#16 : BitVec 16) ≠ 0#16 ∧ State.reset.maxW.toNat < (4097#16 : BitVec 16).toNat := by
  decide

theorem witness_OpenCommand_success :
    (4096#16 : BitVec 16) ≠ 0#16 ∧ (4096#16 : BitVec 16).toNat ≤ State.reset.maxW.toNat ∧
      (4096#16 : BitVec 16).toNat ≤ State.reset.maxH.toNat := by decide

theorem witness_SetradCommand : (0#8 : BitVec 8) = 0#8 ∧ (1#8 : BitVec 8) ≠ 0#8 := by decide

theorem witness_Access_closed : State.reset.opened = false := by decide

theorem witness_Access_out_of_range :
    p1.opened = true ∧ p1.w.toNat ≤ (5#16 : BitVec 16).toNat ∧ p1.h.toNat ≤ (3#16 : BitVec 16).toNat := by decide

theorem witness_WrxAndWry_in_range :
    p1.opened = true ∧ (4#16 : BitVec 16).toNat < p1.w.toNat ∧ p1.xErr.length = p1.w.toNat ∧
      (2#16 : BitVec 16).toNat < p1.h.toNat ∧ p1.yErr.length = p1.h.toNat := by decide

theorem witness_RdxAndRdy_in_range :
    p1.opened = true ∧ (4#16 : BitVec 16).toNat < p1.w.toNat ∧ p1.xErr[(4#16 : BitVec 16).toNat]? = some 10#24 ∧
      (2#16 : BitVec 16).toNat < p1.h.toNat ∧ p1.yErr[(2#16 : BitVec 16).toNat]? = some 30#24 := by decide

theorem witness_RdpixCommand :
    p1.opened = true ∧ (4#16 : BitVec 16).toNat < p1.w.toNat ∧ (2#16 : BitVec 16).toNat < p1.h.toNat ∧
      p1.canvas[(2#16 : BitVec 16).toNat]? = some [gray, gray, gray, gray, gray] ∧
      [gray, gray, gray, gray, gray][(4#16 : BitVec 16).toNat]? = some gray := by decide

theorem witness_RdregCommand : 9 < (10#8 : BitVec 8).toNat := by decide

theorem witness_SelectCommand :
    p1.opened = true ∧ selection p1 = some sel1 ∧ (opened 3#16 3#16).opened = true ∧ selection (opened 3#16 3#16) = none := by
  decide

theorem witness_EngineCommands : State.reset.opened = false ∧ p1.opened = true := by decide

theorem witness_NotOpenCommands : State.reset.opened = false ∧ Instr.stepd ∈ [Instr.select, .stepd, .stepe] ∧
    Instr.clrst ∈ [Instr.nop, .closeCtx, .clrnp, .clrst] := by decide

theorem witness_ErrorChangesStatusOnly :
    exec (.setrad 0#8) State.reset = .next (afterBadArg State.reset) ∧
      (afterBadArg State.reset).rsps = 0x0300000000000000#64 :: State.reset.rsps ∧
      (0x0300000000000000#64).extractLsb' 56 8 ≠ 0#8 := ⟨rfl, rfl, by decide⟩

theorem witness_StatusBitsAreSticky :
    (∃ t, step (withWord 0x0D0000000000000A#64 p1) = .next t) ∧
      ∀ w rest, (withWord 0x0D0000000000000A#64 p1).cmds = w :: rest → decode w ≠ .ok .clrst :=
  ⟨⟨_, rfl⟩, by rintro w rest h; cases h; decide⟩

/-- A command that is not `CLRST`, in a state with a `STATUS` bit set, whose response has `CODE = 0`. -/
theorem witness_RegistersKeepTheirWriters_status :
    exec .nop { p1 with status := 4#5 } = .next (afterResponse 0#64 { p1 with status := 4#5 }) ∧ Instr.nop.op ≠ .clrst ∧
      (afterResponse 0#64 { p1 with status := 4#5 }).rsps = 0#64 :: p1.rsps ∧ (0#64).extractLsb' 56 8 = 0#8 :=
  ⟨rfl, by decide, rfl, by decide⟩

theorem witness_RegistersKeepTheirWriters :
    (∃ t, exec .stepd p1 = .next t) ∧ Instr.stepd.op ∉ [Op.openCtx, .closeCtx] ∧ Instr.stepd.op ≠ .stepe :=
  ⟨⟨_, rfl⟩, by decide, by decide⟩

theorem witness_OnlyOpenCloseAndEngineWriteTheCanvas :
    (∃ t, step (withWord 0x0E00000000000000#64 p1) = .next t) ∧
      ∀ w rest i, (withWord 0x0E00000000000000#64 p1).cmds = w :: rest → decode w = .ok i →
        i.op ∉ [Op.openCtx, .closeCtx, .stepd, .stepe] :=
  ⟨⟨_, rfl⟩, by rintro w rest i h hd; cases h; cases hd; decide⟩

theorem witness_PacketReadAfterWrite : 1 ≠ 0 ∧ pktWf p1.pkt = true ∧ 2 ^ 32 - 1 < 2 ^ 32 := by decide

theorem witness_WorstIsTheFirstMaximum :
    4 < 5 ∧ entry p1.xErr 4 ≠ 0 ∧ ∀ k, k < 3 → entry [0#24, 0#24, 0#24] k = 0 := by decide

theorem witness_SelectionChoosesTheAxis :
    selection p1 = some sel1 ∧ sel1.axis = .col ∧ selection rowMajor = some { axis := .row, pivot := 0, maxErr := 5 } := by
  decide

/-- Both sides of the range of P1's pivot, and both stops before a zero entry (L2-5, third row). -/
theorem witness_ExpandIsBoundedByZeros :
    2 < 5 ∧ 1 < 3 ∧ 0 < (expand [0#24, 5#24, 0#24] 3 2 1).lo ∧ 1 - (expand [0#24, 5#24, 0#24] 3 2 1).lo < 2 ∧
      (expand [0#24, 5#24, 0#24] 3 2 1).hi < 3 - 1 ∧ (expand [0#24, 5#24, 0#24] 3 2 1).hi - 1 < 2 := by decide

theorem witness_CapacityCheckDecides_over :
    rowMajor.opened = true ∧ ({ p1 with size := 2#32 } : State).opened = true ∧
      selection { p1 with size := 2#32 } = some sel1 ∧
      0 < (List.range 3).countP (fun k => entry p1.yErr k == 0) ∧
      (2#32 : BitVec 32).toNat < p1.pos.toNat + 3 * (List.range 3).countP (fun k => entry p1.yErr k == 0) := by decide

/-- `POS + 3N = SIZE`, the last size at which the iteration runs. -/
theorem witness_CapacityCheckDecides_room :
    ({ p1 with size := 3#32 } : State).opened = true ∧ selection { p1 with size := 3#32 } = some sel1 ∧
      p1.pos.toNat + 3 * (List.range 3).countP (fun k => entry p1.yErr k == 0) ≤ (3#32 : BitVec 32).toNat := by decide

theorem witness_CapacityCheckDecides_no_cross_line :
    rowMajor.opened = true ∧ selection rowMajor = some { axis := .row, pivot := 0, maxErr := 5 } ∧
      (List.range 1).countP (fun k => entry rowMajor.xErr k == 0) = 0 := by decide

theorem witness_NothingToRefineChangesNothing :
    (opened 3#16 2#16).opened = true ∧ (∀ k, k < (opened 3#16 2#16).w.toNat → entry (opened 3#16 2#16).xErr k = 0) ∧
      ∀ k, k < (opened 3#16 2#16).h.toNat → entry (opened 3#16 2#16).yErr k = 0 := by decide

theorem witness_ScaleNeverGrowsAnEntry : 0xFFFFFF < 2 ^ 24 ∧ 1 ≤ 255 ∧ 255 ≤ 255 ∧ 254 ≤ 255 := by decide

theorem witness_RebalanceKeepsEntriesBounded :
    2 ≤ 255 ∧ 2 < p1.xErr.length ∧ (expand p1.xErr p1.xErr.length 2 2).lo ≤ 0 ∧
      0 ≤ (expand p1.xErr p1.xErr.length 2 2).hi ∧ 0 ≠ 2 ∧ distance 0 2 = 2 := by decide

theorem witness_RebalanceKeepsEntriesBounded_outside :
    1 ≤ 255 ∧ 2 < p1.xErr.length ∧ 0 ≠ 2 ∧ 0 < (expand p1.xErr p1.xErr.length 1 2).lo ∧ 4 ≠ 2 ∧
      (expand p1.xErr p1.xErr.length 1 2).hi < 4 := by decide

theorem witness_RneIsNearestTiesToEven : (0 : Rat) ≤ 5 / 2 ∧ |(rne (5 / 2) : Rat) - 5 / 2| = 1 / 2 := by decide +kernel

theorem witness_RndFollowsItsFormula :
    (2 : Rat) ^ (-2 : Int) ≤ 1 / 3 ∧ (1 / 3 : Rat) < (2 : Rat) ^ (-2 + 1 : Int) ∧ (1 / 3 : Rat) ≤ 1 / 2 := by
  norm_num [zpow_neg]

theorem witness_FsqrtIsCorrectlyRounded :
    ((2 : Rat) ^ (0 : Int)) ^ 2 ≤ 2 ∧ (2 : Rat) < ((2 : Rat) ^ (0 + 1 : Int)) ^ 2 := by norm_num

theorem witness_DiskCutoff_kept : 1 ≤ 255 ∧ 255 ≤ 255 ∧ 65024 ≤ 2 * 255 ^ 2 ∧ 65024 < 255 ^ 2 := by decide

theorem witness_DiskCutoff_cut : 1 ≤ 1 ∧ 1 ≤ 255 ∧ 1 ≤ 2 * 1 ^ 2 ∧ 1 ^ 2 ≤ 1 := by decide

theorem witness_BlendWeightNeedsNoClamp : 1 ≤ 30 ∧ 30 < 2 ^ 24 ∧ 10 ≤ 30 ∧ 30 ≤ 30 := by decide

theorem witness_BlendIsTheWeightedMean : 0 ≤ 256 ∧ 256 ≤ 256 ∧ 224 ≤ 256 := by decide

/-- The splat of P1, step 1. -/
def splat1 : Splat :=
  { ci := 2, cj := 1, cols := { lo := 0, hi := 4 }, rows := { lo := 0, hi := 2 }, sample := ⟨0xC8#8, 0x64#8, 0x00#8⟩
    xErr := [10#24, 10#24, 0#24, 10#24, 10#24], yErr := [30#24, 0#24, 30#24], maxErr := 40, radius := 2 }

theorem witness_SplatWritesItsDiskOnly_kept :
    (splat1.radius : Int) ^ 2 ≤ ((0 : Nat) - (splat1.ci : Int)) ^ 2 + ((1 : Nat) - (splat1.cj : Int)) ^ 2 := by decide

theorem witness_SplatWritesItsDiskOnly_written :
    splat1.cols.lo ≤ 1 ∧ 1 ≤ splat1.cols.hi ∧ splat1.rows.lo ≤ 0 ∧ 0 ≤ splat1.rows.hi ∧
      ((1 : Nat) - (splat1.ci : Int)) ^ 2 + ((0 : Nat) - (splat1.cj : Int)) ^ 2 < (splat1.radius : Int) ^ 2 ∧
      0 < p1.canvas.length ∧ 1 < (p1.canvas.getD 0 []).length := by decide

theorem witness_IterationFrame : p1.opened = true ∧ selection p1 = some sel1 ∧ overCapacity p1 sel1 = false := by decide

theorem witness_IterationFrame_row :
    rowMajor.opened = true ∧ selection rowMajor = some { axis := .row, pivot := 0, maxErr := 5 } ∧
      overCapacity rowMajor { axis := .row, pivot := 0, maxErr := 5 } = false := by decide

theorem witness_StepeWritesItsSamples :
    p2.opened = true ∧ selection p2 = some sel2 ∧ overCapacity p2 sel2 = false ∧ (∃ t, exec .stepe p2 = .next t) ∧
      (crossOf p2 sel2)[0]? = some 0 := ⟨by decide, by decide, by decide, ⟨_, rfl⟩, by decide⟩

theorem witness_CrossPointBecomesTheSample_decode :
    Inv p1 ∧ p1.opened = true ∧ selection p1 = some sel1 ∧ overCapacity p1 sel1 = false ∧
      (∃ t, exec (engineInstr .decode) p1 = .next t) ∧ (crossOf p1 sel1)[0]? = some 1 :=
  ⟨by decide, by decide, by decide, by decide, ⟨_, rfl⟩, by decide⟩

theorem witness_CrossPointBecomesTheSample_encode :
    Inv p2 ∧ p2.opened = true ∧ selection p2 = some sel2 ∧ overCapacity p2 sel2 = false ∧
      (∃ t, exec (engineInstr .encode) p2 = .next t) ∧ (crossOf p2 sel2)[0]? = some 0 :=
  ⟨by decide, by decide, by decide, by decide, ⟨_, rfl⟩, by decide⟩

theorem witness_CrossPointBecomesTheSample_row :
    Inv p1Row ∧ p1Row.opened = true ∧ selection p1Row = some selRow ∧ overCapacity p1Row selRow = false ∧
      (∃ t, exec (engineInstr .decode) p1Row = .next t) ∧ (crossOf p1Row selRow)[0]? = some 2 :=
  ⟨by decide, by decide, by decide, by decide, ⟨_, rfl⟩, by decide⟩

/-- A state with an exact pixel beside work that is left: column 0 and row 1 of P1 with `xErr[0] = 0`. -/
theorem witness_ExactPixelsAreKept :
    (∃ t, exec (engineInstr .decode) { p1 with xErr := [0#24, 20#24, 40#24, 20#24, 10#24] } = .next t) ∧
      entry [0#24, 20#24, 40#24, 20#24, 10#24] 0 = 0 ∧ entry p1.yErr 1 = 0 ∧
      selection { p1 with xErr := [0#24, 20#24, 40#24, 20#24, 10#24] } = some sel1 :=
  ⟨⟨_, rfl⟩, by decide, by decide, by decide⟩

theorem witness_IterationZeroesOneEntry :
    Inv p1 ∧ p1.opened = true ∧ selection p1 = some sel1 ∧ overCapacity p1 sel1 = false := by decide

theorem witness_EngineRunsEnd : Inv p1 ∧ p1.opened = true := by decide

/-- The encoder is P2; the decoder is the same block with the three bytes that the encoder wrote. -/
theorem witness_EncodeAndDecodeAgree :
    (∃ t1, exec .stepe p2 = .next t1 ∧ t1.pos = 3#32 ∧
      ∀ a, p2.pos.toNat ≤ a → a < t1.pos.toNat → cellAt [(0, 0x0A#8), (1, 0x14#8), (2, 0x1E#8)] a = cellAt t1.pkt a) ∧
      selection p2 = some sel2 := by
  refine ⟨⟨_, rfl, by decide +kernel, ?_⟩, by decide⟩
  decide +kernel

end Sys2Proof.Tests
end

