-- ==== Sys2Proof/Proofs/Float.lean ====
section
/-! Correct rounding of binary32 (00_scope.md R4, R5): the nearest integer, the rounding to
the spacing of a binade, and the square root. -/

namespace Sys2Proof.Machine

/-! ## The nearest integer -/

/-- `rne q` is within one half of `q`, and even where it is exactly one half away. -/
theorem rne_spec {q : ℚ} (hq : 0 ≤ q) :
    q ≤ rne q + 1 / 2 ∧ (rne q : ℚ) ≤ q + 1 / 2 ∧
      (q = rne q + 1 / 2 ∨ (rne q : ℚ) = q + 1 / 2 → rne q % 2 = 0) := by
  obtain ⟨a, ha⟩ := Int.eq_ofNat_of_zero_le (Rat.num_nonneg.mpr hq)
  have hb : (0 : ℚ) < q.den := by exact_mod_cast q.den_pos
  have hqb : q * q.den = a := by rw [Rat.mul_den_eq_num, ha]; rfl
  obtain ⟨above, below, tie⟩ := rneDiv_spec a q.den_pos
  have hn : rneDiv a q.den = rne q := by simp [rne, ha]
  rw [hn] at above below tie
  have above' : 2 * (a : ℚ) ≤ (2 * rne q + 1) * q.den := by exact_mod_cast above
  have below' : 2 * (rne q : ℚ) * q.den ≤ 2 * a + q.den := by exact_mod_cast below
  rw [← hqb] at above' below'
  refine ⟨le_of_mul_le_mul_right (by linarith) hb, le_of_mul_le_mul_right (by linarith) hb, fun h => tie ?_⟩
  rcases h with h | h
  · left
    have : 2 * (a : ℚ) = (2 * rne q + 1) * q.den := by rw [← hqb]; linear_combination 2 * (q.den : ℚ) * h
    exact_mod_cast this
  · right
    have : 2 * (rne q : ℚ) * q.den = 2 * a + q.den := by rw [← hqb]; linear_combination 2 * (q.den : ℚ) * h
    exact_mod_cast this

/-- Settles O45: the distance is bounded from both sides, and each side's tie gives an even integer. -/
theorem rneIsNearestTiesToEven : Obligations.RneIsNearestTiesToEven := by
  intro q hq
  obtain ⟨above, below, tie⟩ := rne_spec hq
  refine ⟨abs_le.mpr ⟨by linarith, by linarith⟩, fun h => tie ?_⟩
  rcases (abs_eq (by norm_num)).mp h with h | h
  · right; linarith
  · left; linarith

/-! ## Rounding inside and across binades -/

/-- Powers of two are ordered as their exponents. -/
@[simp] theorem pow2_lt_pow2_iff {m n : Int} : pow2 m < pow2 n ↔ m < n := by
  rw [pow2_eq_zpow, pow2_eq_zpow]
  exact zpow_lt_zpow_iff_right₀ one_lt_two

/-- Powers of two are ordered as their exponents. -/
@[simp] theorem pow2_le_pow2_iff {m n : Int} : pow2 m ≤ pow2 n ↔ m ≤ n :=
  le_iff_le_iff_lt_iff_lt.mpr pow2_lt_pow2_iff

/-- Rounding is odd. -/
@[simp] theorem rnd_neg (q : ℚ) : rnd (-q) = -rnd q := by
  rcases lt_trichotomy q 0 with h | rfl | h
  · simp [rnd, h, h.ne, h.le.not_gt]
  · simp
  · simp [rnd, h, h.ne', h.le.not_gt]

/-- Rounding in the binade of `2^e` is to the spacing `2^(e-23)`. -/
theorem rnd_of_binade {q : ℚ} {e : Int} (lo : pow2 e ≤ q) (hi : q < pow2 (e + 1)) :
    rnd q = pow2 (e - 23) * (rne (q / pow2 (e - 23)) : ℚ) := by
  rw [rnd_of_pos ((pow2_pos e).trans_le lo), ulp, floorLog2_unique lo hi]

/-- A power of two in units of a spacing below it. -/
theorem pow2_div_pow2 (e : Int) (k : ℕ) : pow2 (e + k) / pow2 e = ((2 ^ k : ℕ) : ℚ) := by
  rw [pow2_add, mul_div_cancel_left₀ _ (pow2_pos e).ne']
  rfl

/-- Rounding does not leave the closed binade. -/
theorem rnd_mem_binade {q : ℚ} {e : Int} (lo : pow2 e ≤ q) (hi : q < pow2 (e + 1)) :
    pow2 e ≤ rnd q ∧ rnd q ≤ pow2 (e + 1) := by
  have hu : 0 < pow2 (e - 23) := pow2_pos _
  have bottom : pow2 e / pow2 (e - 23) = ((2 ^ 23 : ℕ) : ℚ) := by
    rw [← pow2_div_pow2 (e - 23)]; congr 2; omega
  have top : pow2 (e + 1) / pow2 (e - 23) = ((2 ^ 24 : ℕ) : ℚ) := by
    rw [← pow2_div_pow2 (e - 23)]; congr 2; omega
  have hlo : 2 ^ 23 ≤ rne (q / pow2 (e - 23)) := by
    rw [← rne_natCast (2 ^ 23), ← bottom]
    exact rne_mono (div_pos (pow2_pos e) hu).le (div_le_div_of_nonneg_right lo hu.le)
  have hhi : rne (q / pow2 (e - 23)) ≤ 2 ^ 24 := by
    rw [← rne_natCast (2 ^ 24), ← top]
    exact rne_mono (div_pos ((pow2_pos e).trans_le lo) hu).le (div_le_div_of_nonneg_right hi.le hu.le)
  rw [rnd_of_binade lo hi]
  constructor
  · rw [← div_le_iff₀' hu, bottom]; exact_mod_cast hlo
  · rw [← le_div_iff₀' hu, top]; exact_mod_cast hhi

/-- The rounding of a positive number is positive. -/
theorem rnd_pos {q : ℚ} (h : 0 < q) : 0 < rnd q :=
  have ⟨lo, hi⟩ := floorLog2_spec h
  (pow2_pos _).trans_le (rnd_mem_binade lo hi).1

/-- Rounding keeps the order of positive numbers: inside one binade by `rne_mono`, and two binades are parted by a power of
two that neither rounding crosses. -/
theorem rnd_mono_of_pos {a b : ℚ} (ha : 0 < a) (h : a ≤ b) : rnd a ≤ rnd b := by
  obtain ⟨a_lo, a_hi⟩ := floorLog2_spec ha
  obtain ⟨b_lo, b_hi⟩ := floorLog2_spec (ha.trans_le h)
  have exponents : floorLog2 a < floorLog2 b + 1 := pow2_lt_pow2_iff.mp (a_lo.trans_lt (h.trans_lt b_hi))
  rcases (Int.lt_add_one_iff.mp exponents).eq_or_lt with same | below
  · rw [same] at a_lo a_hi
    rw [rnd_of_binade a_lo a_hi, rnd_of_binade b_lo b_hi]
    set u := pow2 (floorLog2 b - 23)
    have hu : 0 < u := pow2_pos _
    have hrne : rne (a / u) ≤ rne (b / u) :=
      rne_mono (div_pos ha hu).le (div_le_div_of_nonneg_right h hu.le)
    exact mul_le_mul_of_nonneg_left (by exact_mod_cast hrne) hu.le
  · calc rnd a ≤ pow2 (floorLog2 a + 1) := (rnd_mem_binade a_lo a_hi).2
      _ ≤ pow2 (floorLog2 b) := pow2_le_pow2_iff.mpr below
      _ ≤ rnd b := (rnd_mem_binade b_lo b_hi).1

/-- The rounding of a number that is not negative is not negative. -/
theorem rnd_nonneg {q : ℚ} (h : 0 ≤ q) : 0 ≤ rnd q := by
  rcases h.eq_or_lt with rfl | h
  · simp
  · exact (rnd_pos h).le

/-- Rounding keeps the order. -/
theorem rnd_mono {a b : ℚ} (h : a ≤ b) : rnd a ≤ rnd b := by
  rcases lt_or_ge 0 a with ha | ha
  · exact rnd_mono_of_pos ha h
  have neg_a : 0 ≤ rnd (-a) := rnd_nonneg (by linarith)
  rcases lt_or_ge b 0 with hb | hb
  · have := rnd_mono_of_pos (neg_pos.mpr hb) (neg_le_neg h)
    simpa using this
  · rw [rnd_neg] at neg_a
    exact (neg_nonneg.mp neg_a).trans (rnd_nonneg hb)

/-- Settles O46, from the rounding in one binade and its order. -/
theorem rndFollowsItsFormula : Obligations.RndFollowsItsFormula := by
  refine ⟨rnd_zero, rnd_neg, fun q e lo hi => ?_, fun a b => rnd_mono⟩
  simp only [← pow2_eq_zpow] at *
  exact rnd_of_binade lo hi

/-! ## The square root -/

/-- `isqrt` of the integer part is the integer part of the root. -/
theorem isqrt_floor_spec {x : ℚ} (hx : 0 ≤ x) :
    (isqrt (x.num.toNat / x.den) : ℚ) ^ 2 ≤ x ∧ x < ((isqrt (x.num.toNat / x.den) : ℚ) + 1) ^ 2 := by
  have hfloor : x.num.toNat / x.den = ⌊x⌋₊ := by
    rw [← Rat.natFloor_natCast_div_natCast]
    congr 1
    conv_rhs => rw [← Rat.num_div_den x]
    congr 1
    exact_mod_cast Int.toNat_of_nonneg (Rat.num_nonneg.mpr hx)
  obtain ⟨below, above⟩ := isqrt_spec (x.num.toNat / x.den)
  rw [hfloor] at below above ⊢
  constructor
  · calc (isqrt ⌊x⌋₊ : ℚ) ^ 2 ≤ (⌊x⌋₊ : ℚ) := by rw [sq]; exact_mod_cast below
      _ ≤ x := Nat.floor_le hx
  · calc x < (⌊x⌋₊ : ℚ) + 1 := Nat.lt_floor_add_one x
      _ ≤ ((isqrt ⌊x⌋₊ : ℚ) + 1) ^ 2 := by rw [sq]; exact_mod_cast above

/-- For `x` of at least 1, the root of `x` is within one half of `rneSqrt x`, which is even where it is exactly one half away. -/
theorem rneSqrt_spec {x : ℚ} (hx : 1 ≤ x) :
    ((rneSqrt x : ℚ) - 1 / 2) ^ 2 ≤ x ∧ x ≤ ((rneSqrt x : ℚ) + 1 / 2) ^ 2 ∧
      (((rneSqrt x : ℚ) - 1 / 2) ^ 2 = x ∨ x = ((rneSqrt x : ℚ) + 1 / 2) ^ 2 → rneSqrt x % 2 = 0) := by
  obtain ⟨below, above⟩ := isqrt_floor_spec (zero_le_one.trans hx)
  unfold rneSqrt
  set n := isqrt (x.num.toNat / x.den)
  have hn : (1 : ℚ) ≤ n := by
    have : (0 : ℚ) < n := by nlinarith [Nat.cast_nonneg (α := ℚ) n]
    exact_mod_cast this
  push_cast
  split
  · next down =>
    have left : ((n : ℚ) - 1 / 2) ^ 2 < x := by nlinarith
    have right : x < ((n : ℚ) + 1 / 2) ^ 2 := by linarith
    exact ⟨left.le, right.le, fun tie => absurd tie (by simp only [left.ne, right.ne, or_self, not_false_iff])⟩
  · split
    · next up =>
      have left : ((n : ℚ) + 1 - 1 / 2) ^ 2 < x := by linarith
      have right : x < ((n : ℚ) + 1 + 1 / 2) ^ 2 := by nlinarith
      exact ⟨left.le, right.le, fun tie => absurd tie (by simp only [left.ne, right.ne, or_self, not_false_iff])⟩
    · next not_down not_up =>
      have tie : x = ((n : ℚ) + 1 / 2) ^ 2 := by linarith
      rcases Nat.mod_two_eq_zero_or_one n with h | h
      · rw [h, Nat.cast_zero, add_zero]
        exact ⟨by nlinarith, tie.le, fun _ => h⟩
      · rw [h, Nat.cast_one]
        exact ⟨by linarith, by nlinarith, fun _ => by omega⟩

/-- The spacing at a root in the binade of `2^e`. -/
theorem sqrtUlp_of_binade {a : ℚ} {e : Int} (lo : pow2 e ^ 2 ≤ a) (hi : a < pow2 (e + 1) ^ 2) :
    sqrtUlp a = pow2 (e - 23) := by
  rw [sq, ← pow2_add] at lo hi
  obtain ⟨s1, s2⟩ := floorLog2_spec ((pow2_pos _).trans_le lo)
  have below : e + e < floorLog2 a + 1 := pow2_lt_pow2_iff.mp (lo.trans_lt s2)
  have above : floorLog2 a < e + 1 + (e + 1) := pow2_lt_pow2_iff.mp (s1.trans_lt hi)
  rw [sqrtUlp, show floorLog2 a / 2 = e by omega]

/-- Settles O47: in units of the spacing at the root, `fsqrt` is `rneSqrt`. -/
theorem fsqrtIsCorrectlyRounded : Obligations.FsqrtIsCorrectlyRounded := by
  intro a e lo hi
  simp only [← pow2_eq_zpow] at *
  have ha : 0 < a := (pow_pos (pow2_pos e) 2).trans_le lo
  have hulp := sqrtUlp_of_binade lo hi
  have hu : 0 < pow2 (e - 23) := pow2_pos _
  have hle : pow2 (e - 23) ≤ pow2 e := pow2_le_pow2_iff.mpr (by omega)
  set u := pow2 (e - 23)
  have hax : a = a / (u * u) * u ^ 2 := by field_simp
  have hx : 1 ≤ a / (u * u) := by
    rw [one_le_div₀ (mul_pos hu hu), ← sq]
    exact (pow_le_pow_left₀ hu.le hle 2).trans lo
  have hu2 : (0 : ℚ) < u ^ 2 := pow_pos hu 2
  obtain ⟨left, right, tie⟩ := rneSqrt_spec hx
  refine ⟨rneSqrt (a / (u * u)), by simp [fsqrt, ha.ne', hulp], ?_⟩
  generalize rneSqrt (a / (u * u)) = n at *
  generalize a / (u * u) = x at *
  subst hax
  simp only [mul_pow, mul_le_mul_iff_left₀ hu2, mul_left_inj' hu2.ne']
  exact ⟨left, right, tie⟩

end Sys2Proof.Machine
end

/-! The registers, the rulers and the host spaces: which command writes which of them, that `STATUS` is sticky, that every
step keeps the invariant, and the frame of one engine iteration (10_state.md R22 to R35, 41_engine.md R157 to R178). -/

namespace Sys2Proof.Machine

/-! ## What an iteration leaves alone -/

/-- An iteration writes `pos`, `numpix`, the rulers, the canvas, `pkt` and the model's `epoch` at most. -/
theorem iterate_state_frame (mode : Mode) (s : State) (sel : Selection) :
    iterate mode s sel = { s with
      pos := (iterate mode s sel).pos, numpix := (iterate mode s sel).numpix
      xErr := (iterate mode s sel).xErr, yErr := (iterate mode s sel).yErr
      canvas := (iterate mode s sel).canvas, pkt := (iterate mode s sel).pkt, epoch := (iterate mode s sel).epoch } := by
  have hi := iterate_frame mode s sel
  have hr := rebalanced_frame s sel
  generalize iterate mode s sel = v at hi ⊢
  generalize rebalanced s sel = u at hi hr
  rw [hi, hr]

/-- The state changes of an engine command whose checks pass: those of the selected iteration, none where nothing is
selected. -/
def engineEffect (mode : Mode) (s : State) : State := (selection s).elim s (iterate mode s)

theorem engineEffect_of_none {mode : Mode} {s : State} (h : selection s = none) : engineEffect mode s = s := by
  simp [engineEffect, h]

theorem engineEffect_of_some {mode : Mode} {s : State} {sel : Selection} (h : selection s = some sel) :
    engineEffect mode s = iterate mode s sel := by
  simp [engineEffect, h]

theorem effectOf_stepd (s : State) : effectOf .stepd s = engineEffect .decode s := rfl

theorem effectOf_stepe (s : State) : effectOf .stepe s = engineEffect .encode s := rfl

/-- An engine command writes what an iteration writes at most. -/
theorem engineEffect_frame (mode : Mode) (s : State) :
    engineEffect mode s = { s with
      pos := (engineEffect mode s).pos, numpix := (engineEffect mode s).numpix
      xErr := (engineEffect mode s).xErr, yErr := (engineEffect mode s).yErr
      canvas := (engineEffect mode s).canvas, pkt := (engineEffect mode s).pkt
      epoch := (engineEffect mode s).epoch } := by
  cases h : selection s with
  | none => rw [engineEffect_of_none h]
  | some sel => rw [engineEffect_of_some h]; exact iterate_state_frame mode s sel

/-! ## `NUMPIX` and the packet along the walk -/

theorem walk_numpix_decode (sel : Selection) (rng : Range) (ks : List Nat) (s : State) :
    (ks.foldl (crossPoint .decode sel rng) s).numpix = s.numpix := by
  induction ks generalizing s with
  | nil => rfl
  | cons k ks ih => rw [List.foldl_cons, ih, (crossPoint_decode sel rng s k).1]

/-- In encode mode the walk counts one sample for every cross point, modulo 2^32. -/
theorem walk_numpix_encode (sel : Selection) (rng : Range) (ks : List Nat) (s : State) :
    (ks.foldl (crossPoint .encode sel rng) s).numpix = s.numpix + BitVec.ofNat 32 ks.length := by
  induction ks generalizing s with
  | nil => simp
  | cons k ks ih =>
    rw [List.foldl_cons, ih, (crossPoint_encode sel rng s k).1, List.length_cons, Nat.add_comm ks.length, BitVec.ofNat_add,
      BitVec.add_assoc]

theorem walk_pkt_decode (sel : Selection) (rng : Range) (ks : List Nat) (s : State) :
    (ks.foldl (crossPoint .decode sel rng) s).pkt = s.pkt := by
  induction ks generalizing s with
  | nil => rfl
  | cons k ks ih => rw [List.foldl_cons, ih, (crossPoint_decode sel rng s k).2]

/-- `POS` after a cross point, where it does not wrap around. -/
theorem crossPoint_pos_toNat (mode : Mode) (sel : Selection) (rng : Range) {s : State} (k : Nat)
    (room : s.pos.toNat + 3 < 2 ^ 32) : (crossPoint mode sel rng s k).pos.toNat = s.pos.toNat + 3 := by
  rw [crossPoint_frame, BitVec.toNat_add]
  exact Nat.mod_eq_of_lt room

/-- A cross point writes no packet byte but the three from `POS` on. -/
theorem crossPoint_cellAt_outside (mode : Mode) (sel : Selection) (rng : Range) {s : State} (k : Nat) {a : Nat}
    (outside : a < s.pos.toNat ∨ s.pos.toNat + 3 ≤ a) :
    cellAt (crossPoint mode sel rng s k).pkt a = cellAt s.pkt a := by
  cases mode with
  | decode => rw [(crossPoint_decode sel rng s k).2]
  | encode =>
    rw [(crossPoint_encode sel rng s k).2, cellAt_pktWriteSample, if_neg (by omega), if_neg (by omega), if_neg (by omega)]

theorem crossPoint_pktWf (mode : Mode) (sel : Selection) (rng : Range) {s : State} (k : Nat)
    (wf : pktWf s.pkt = true) (room : s.pos.toNat + 3 < 2 ^ 32) : pktWf (crossPoint mode sel rng s k).pkt = true := by
  cases mode with
  | decode => rwa [(crossPoint_decode sel rng s k).2]
  | encode =>
    rw [(crossPoint_encode sel rng s k).2]
    exact pktWf_pktWriteSample _ wf (by rw [pktTop]; omega)

/-- The walk writes no packet byte but three per cross point from `POS` on. -/
theorem walk_cellAt_outside (mode : Mode) (sel : Selection) (rng : Range) (ks : List Nat) {s : State} {a : Nat}
    (room : s.pos.toNat + 3 * ks.length < 2 ^ 32) (outside : a < s.pos.toNat ∨ s.pos.toNat + 3 * ks.length ≤ a) :
    cellAt (ks.foldl (crossPoint mode sel rng) s).pkt a = cellAt s.pkt a := by
  induction ks generalizing s with
  | nil => rfl
  | cons k ks ih =>
    rw [List.length_cons] at room outside
    have hp := crossPoint_pos_toNat mode sel rng (s := s) k (by omega)
    rw [List.foldl_cons, ih (by omega) (by omega), crossPoint_cellAt_outside mode sel rng k (by omega)]

theorem walk_pktWf (mode : Mode) (sel : Selection) (rng : Range) (ks : List Nat) {s : State}
    (wf : pktWf s.pkt = true) (room : s.pos.toNat + 3 * ks.length < 2 ^ 32) :
    pktWf (ks.foldl (crossPoint mode sel rng) s).pkt = true := by
  induction ks generalizing s with
  | nil => exact wf
  | cons k ks ih =>
    rw [List.length_cons] at room
    have hp := crossPoint_pos_toNat mode sel rng (s := s) k (by omega)
    exact ih (crossPoint_pktWf mode sel rng k wf (by omega)) (by omega)

/-- The capacity check leaves `POS` room to move past every sample without wrapping around (41_engine.md R159). -/
theorem room_of_not_overCapacity {s : State} {sel : Selection} (h : overCapacity s sel = false) :
    s.pos.toNat + 3 * (crossOf s sel).length < 2 ^ 32 := by
  have hp := s.pos.isLt
  have hs := s.size.isLt
  simp only [overCapacity, Bool.and_eq_false_iff, decide_eq_false_iff_not] at h
  omega

/-! ## The shape of the canvas along the walk -/

/-- The length of each row: what the invariant says of a canvas. -/
def rowLengths (c : Canvas) : List Nat := c.map List.length

/-- A splat keeps the length of every row. -/
theorem rowLengths_splatCanvas (p : Splat) (c : Canvas) : rowLengths (splatCanvas p c) = rowLengths c := by
  refine List.ext_getElem? fun j => ?_
  rw [rowLengths, rowLengths, List.getElem?_map, List.getElem?_map, splatCanvas_getElem?, Option.map_map]
  congr 1
  funext row
  simp only [Function.comp_apply]
  split
  · exact List.length_mapIdx
  · rfl

theorem rowLengths_crossPoint (mode : Mode) (sel : Selection) (rng : Range) (s : State) (k : Nat) :
    rowLengths (crossPoint mode sel rng s k).canvas = rowLengths s.canvas := by
  cases mode <;> exact rowLengths_splatCanvas _ s.canvas

theorem rowLengths_walk (mode : Mode) (sel : Selection) (rng : Range) (ks : List Nat) (s : State) :
    rowLengths (ks.foldl (crossPoint mode sel rng) s).canvas = rowLengths s.canvas := by
  induction ks generalizing s with
  | nil => rfl
  | cons k ks ih => rw [List.foldl_cons, ih, rowLengths_crossPoint]

/-! ## What an iteration writes -/

section iterate
variable (mode : Mode) (s : State) (sel : Selection)

theorem iterate_pos : (iterate mode s sel).pos = s.pos + BitVec.ofNat 32 (3 * (crossOf s sel).length) := by
  have h := walk_pos mode sel (pivotRange s sel) (crossOf s sel) (rebalanced s sel)
  rwa [rebalanced_pos] at h

theorem iterate_numpix_decode : (iterate .decode s sel).numpix = s.numpix :=
  (walk_numpix_decode sel _ _ _).trans (rebalanced_numpix s sel)

theorem iterate_numpix_encode :
    (iterate .encode s sel).numpix = s.numpix + BitVec.ofNat 32 (crossOf s sel).length := by
  have h := walk_numpix_encode sel (pivotRange s sel) (crossOf s sel) (rebalanced s sel)
  rwa [rebalanced_numpix] at h

theorem iterate_xErr : (iterate mode s sel).xErr = (rebalanced s sel).xErr := by rw [iterate_frame]

theorem iterate_yErr : (iterate mode s sel).yErr = (rebalanced s sel).yErr := by rw [iterate_frame]

theorem iterate_pkt_decode : (iterate .decode s sel).pkt = s.pkt :=
  (walk_pkt_decode sel _ _ _).trans (rebalanced_pkt s sel)

theorem rowLengths_iterate : rowLengths (iterate mode s sel).canvas = rowLengths s.canvas := by
  have h := rowLengths_walk mode sel (pivotRange s sel) (crossOf s sel) (rebalanced s sel)
  rwa [rebalanced_canvas] at h

variable {s sel}

/-- An iteration that passed its capacity check writes no packet byte outside its samples. -/
theorem iterate_cellAt_outside {a : Nat} (hc : overCapacity s sel = false)
    (outside : a < s.pos.toNat ∨ s.pos.toNat + 3 * (crossOf s sel).length ≤ a) :
    cellAt (iterate mode s sel).pkt a = cellAt s.pkt a := by
  have h := walk_cellAt_outside mode sel (pivotRange s sel) (crossOf s sel) (s := rebalanced s sel) (a := a)
  rw [rebalanced_pos, rebalanced_pkt] at h
  exact h (room_of_not_overCapacity hc) outside

theorem iterate_pktWf (hc : overCapacity s sel = false) (wf : pktWf s.pkt = true) :
    pktWf (iterate mode s sel).pkt = true := by
  have h := walk_pktWf mode sel (pivotRange s sel) (crossOf s sel) (s := rebalanced s sel)
  rw [rebalanced_pos, rebalanced_pkt] at h
  exact h wf (room_of_not_overCapacity hc)

/-- `POS` after an iteration that passed its capacity check: it does not wrap around (41_engine.md R164, R165). -/
theorem iterate_pos_toNat (hc : overCapacity s sel = false) :
    (iterate mode s sel).pos.toNat = s.pos.toNat + 3 * (crossOf s sel).length := by
  have room := room_of_not_overCapacity hc
  rw [iterate_pos, BitVec.toNat_add, BitVec.toNat_ofNat]
  omega

end iterate

/-- Rebalancing keeps the length of both rulers. -/
theorem rebalanced_length (s : State) (sel : Selection) :
    (rebalanced s sel).xErr.length = s.xErr.length ∧ (rebalanced s sel).yErr.length = s.yErr.length := by
  unfold rebalanced
  cases sel.axis with
  | col => exact ⟨rebalance_length _ _ _ _, rfl⟩
  | row => exact ⟨rfl, rebalance_length _ _ _ _⟩

/-! ## The writers of each register (10_state.md R22, R35) -/

/-- The hardwired sizes, the target and the command channel have no writer. -/
theorem effectOf_hardwired (i : Instr) (s : State) :
    (effectOf i s).maxW = s.maxW ∧ (effectOf i s).maxH = s.maxH ∧ (effectOf i s).tgt = s.tgt ∧
      (effectOf i s).cmds = s.cmds := by
  cases i with
  | stepd => rw [effectOf_stepd, engineEffect_frame]; exact ⟨rfl, rfl, rfl, rfl⟩
  | stepe => rw [effectOf_stepe, engineEffect_frame]; exact ⟨rfl, rfl, rfl, rfl⟩
  | _ => exact ⟨rfl, rfl, rfl, rfl⟩

theorem effectOf_status {i : Instr} (h : i.op ≠ .clrst) (s : State) : (effectOf i s).status = s.status := by
  cases i with
  | clrst => exact absurd rfl h
  | stepd => rw [effectOf_stepd, engineEffect_frame]
  | stepe => rw [effectOf_stepe, engineEffect_frame]
  | _ => rfl

theorem effectOf_context {i : Instr} (h : i.op ∉ [Op.openCtx, .closeCtx]) (s : State) :
    (effectOf i s).opened = s.opened ∧ (effectOf i s).w = s.w ∧ (effectOf i s).h = s.h := by
  cases i with
  | openCtx | closeCtx => simp [Instr.op] at h
  | stepd => rw [effectOf_stepd, engineEffect_frame]; exact ⟨rfl, rfl, rfl⟩
  | stepe => rw [effectOf_stepe, engineEffect_frame]; exact ⟨rfl, rfl, rfl⟩
  | _ => exact ⟨rfl, rfl, rfl⟩

theorem effectOf_radius {i : Instr} (h : i.op ∉ [Op.openCtx, .setrad]) (s : State) :
    (effectOf i s).radius = s.radius := by
  cases i with
  | openCtx | setrad => simp [Instr.op] at h
  | stepd => rw [effectOf_stepd, engineEffect_frame]
  | stepe => rw [effectOf_stepe, engineEffect_frame]
  | _ => rfl

theorem effectOf_pos {i : Instr} (h : i.op ∉ [Op.openCtx, .setpos, .stepd, .stepe]) (s : State) :
    (effectOf i s).pos = s.pos := by
  cases i with
  | openCtx | setpos | stepd | stepe => simp [Instr.op] at h
  | _ => rfl

theorem effectOf_size {i : Instr} (h : i.op ∉ [Op.openCtx, .setsize]) (s : State) : (effectOf i s).size = s.size := by
  cases i with
  | openCtx | setsize => simp [Instr.op] at h
  | stepd => rw [effectOf_stepd, engineEffect_frame]
  | stepe => rw [effectOf_stepe, engineEffect_frame]
  | _ => rfl

/-- `STEPD` is no writer of `NUMPIX`: decode mode does not count its samples (41_engine.md R164). -/
theorem effectOf_numpix {i : Instr} (h : i.op ∉ [Op.openCtx, .clrnp, .stepe]) (s : State) :
    (effectOf i s).numpix = s.numpix := by
  cases i with
  | openCtx | clrnp | stepe => simp [Instr.op] at h
  | stepd =>
    rw [effectOf_stepd]
    cases hs : selection s with
    | none => rw [engineEffect_of_none hs]
    | some sel => rw [engineEffect_of_some hs, iterate_numpix_decode]
  | _ => rfl

theorem effectOf_xErr {i : Instr} (h : i.op ∉ [Op.openCtx, .closeCtx, .wrx, .stepd, .stepe]) (s : State) :
    (effectOf i s).xErr = s.xErr := by
  cases i with
  | openCtx | closeCtx | wrx | stepd | stepe => simp [Instr.op] at h
  | _ => rfl

theorem effectOf_yErr {i : Instr} (h : i.op ∉ [Op.openCtx, .closeCtx, .wry, .stepd, .stepe]) (s : State) :
    (effectOf i s).yErr = s.yErr := by
  cases i with
  | openCtx | closeCtx | wry | stepd | stepe => simp [Instr.op] at h
  | _ => rfl

/-- `STEPD` is no writer of the packet: decode mode only reads it (41_engine.md R164). -/
theorem effectOf_pkt {i : Instr} (h : i.op ≠ .stepe) (s : State) : (effectOf i s).pkt = s.pkt := by
  cases i with
  | stepe => exact absurd rfl h
  | stepd =>
    rw [effectOf_stepd]
    cases hs : selection s with
    | none => rw [engineEffect_of_none hs]
    | some sel => rw [engineEffect_of_some hs, iterate_pkt_decode]
  | _ => rfl

/-- Settles O33: a command that succeeds writes what its effect writes, and one that fails writes `STATUS` alone and has a
response with another `CODE` than 0. -/
theorem registersKeepTheirWriters : Obligations.RegistersKeepTheirWriters := by
  intro i s t h
  rcases exec_next_cases h with ⟨_, d, rfl⟩ | ⟨_, e, rfl⟩
  · obtain ⟨hmaxW, hmaxH, htgt, hcmds⟩ := effectOf_hardwired i s
    exact ⟨hmaxW, hmaxH, htgt, hcmds, fun hi _ _ _ => effectOf_status hi s, fun hi => effectOf_context hi s,
      fun hi => effectOf_radius hi s, fun hi => effectOf_pos hi s, fun hi => effectOf_size hi s,
      fun hi => effectOf_numpix hi s, fun hi => effectOf_xErr hi s, fun hi => effectOf_yErr hi s,
      fun hi => effectOf_pkt hi s⟩
  · have code_ne (r : RspWord) (hr : (raiseError e s).rsps = r :: s.rsps) : responseCode r ≠ 0#8 := by
      rw [raiseError_rsps] at hr
      rw [← (List.cons.inj hr).1, responseCode_responseWord]
      exact errorCode_ne_success e
    exact ⟨rfl, rfl, rfl, rfl, fun _ r hr h0 => absurd h0 (code_ne r hr), fun _ => ⟨rfl, rfl, rfl⟩, fun _ => rfl,
      fun _ => rfl, fun _ => rfl, fun _ => rfl, fun _ => rfl, fun _ => rfl, fun _ => rfl⟩

/-! ## `STATUS` is sticky (10_state.md R27, 60_exceptions.md R211) -/

/-- Raising an error keeps every bit of `STATUS` that is set. -/
theorem status_and_raiseError (e : ErrorCode) (s : State) : s.status &&& (raiseError e s).status = s.status := by
  rw [raiseError_status]
  refine BitVec.eq_of_getElem_eq fun k hk => ?_
  rw [BitVec.getElem_and, BitVec.getElem_or]
  cases s.status[k] <;> rfl

/-- Settles O32: a step waits, succeeds with the same `STATUS`, or sets one more bit. -/
theorem statusBitsAreSticky : Obligations.StatusBitsAreSticky := by
  intro s t h hclrst
  rcases step_cases h with ⟨_, rfl⟩ | ⟨w, rest, i, hcmds, hdec, hexec⟩ | ⟨w, rest, _, _, _, rfl⟩
  · exact BitVec.and_self
  · rcases exec_next_cases hexec with ⟨_, d, rfl⟩ | ⟨_, e, rfl⟩
    · have hop : i.op ≠ .clrst := by
        cases i with
        | clrst => exact absurd hdec (hclrst w rest hcmds)
        | _ => exact Op.noConfusion
      rw [succeed_status, effectOf_status hop]
      exact BitVec.and_self
    · exact status_and_raiseError e { s with cmds := rest }
  · exact status_and_raiseError .illegal { s with cmds := rest }

/-! ## The invariant -/

/-- The shape of the context store reads the rulers and the canvas through their lengths alone. -/
theorem contextShape_iff (s : State) :
    contextShape s = true ↔
      if s.opened then
        (1 ≤ s.w.toNat ∧ s.w.toNat ≤ s.maxW.toNat) ∧ (1 ≤ s.h.toNat ∧ s.h.toNat ≤ s.maxH.toNat) ∧
          s.xErr.length = s.w.toNat ∧ s.yErr.length = s.h.toNat ∧ (rowLengths s.canvas).length = s.h.toNat ∧
          ∀ n ∈ rowLengths s.canvas, n = s.w.toNat
      else s.w = 0#16 ∧ s.h = 0#16 ∧ s.xErr.length = 0 ∧ s.yErr.length = 0 ∧ (rowLengths s.canvas).length = 0 := by
  unfold contextShape rowLengths
  split <;> simp [and_assoc]

/-- The two states have the same context sizes, and rulers and canvas of the same lengths. -/
structure SameShape (s t : State) : Prop where
  opened : t.opened = s.opened
  w : t.w = s.w
  h : t.h = s.h
  maxW : t.maxW = s.maxW
  maxH : t.maxH = s.maxH
  xErr : t.xErr.length = s.xErr.length
  yErr : t.yErr.length = s.yErr.length
  rows : rowLengths t.canvas = rowLengths s.canvas

theorem SameShape.contextShape {s t : State} (hst : SameShape s t) (hs : contextShape s = true) :
    contextShape t = true := by
  rw [contextShape_iff] at hs ⊢
  rwa [hst.opened, hst.w, hst.h, hst.maxW, hst.maxH, hst.xErr, hst.yErr, hst.rows]

theorem sameShape_writeX (k : Nat) (v : BitVec 24) (s : State) : SameShape s (writeX k v s) :=
  ⟨rfl, rfl, rfl, rfl, rfl, List.length_set, rfl, rfl⟩

theorem sameShape_writeY (k : Nat) (v : BitVec 24) (s : State) : SameShape s (writeY k v s) :=
  ⟨rfl, rfl, rfl, rfl, rfl, rfl, List.length_set, rfl⟩

theorem sameShape_iterate (mode : Mode) (s : State) (sel : Selection) : SameShape s (iterate mode s sel) where
  opened := by rw [iterate_state_frame]
  w := by rw [iterate_state_frame]
  h := by rw [iterate_state_frame]
  maxW := by rw [iterate_state_frame]
  maxH := by rw [iterate_state_frame]
  xErr := by rw [iterate_xErr, (rebalanced_length s sel).1]
  yErr := by rw [iterate_yErr, (rebalanced_length s sel).2]
  rows := rowLengths_iterate mode s sel

/-- A new context whose sizes passed the checks of `OPEN` has its shape. -/
theorem contextShape_newContext {a b : BitVec 16} {s : State} (hzero : sizeZero a b = false)
    (hlarge : sizeTooLarge a b s = false) : contextShape (newContext a b s) = true := by
  simp only [sizeZero, Bool.or_eq_false_iff, beq_eq_false_iff_ne] at hzero
  simp only [sizeTooLarge, Bool.or_eq_false_iff, decide_eq_false_iff_not, Nat.not_lt] at hlarge
  obtain ⟨ha, hb⟩ := hzero
  obtain ⟨hw, hh⟩ := hlarge
  have ha' : 1 ≤ a.toNat := by bv_omega
  have hb' : 1 ≤ b.toNat := by bv_omega
  rw [contextShape_iff, newContext_opened, if_pos rfl]
  refine ⟨⟨ha', hw⟩, ⟨hb', hh⟩, List.length_replicate, List.length_replicate, ?_, ?_⟩
  · simp [rowLengths, grayCanvas]
  · simp [rowLengths, grayCanvas]

theorem contextShape_dropContext (s : State) : contextShape (dropContext s) = true := rfl

theorem inv_iterate {mode : Mode} {s : State} {sel : Selection} (hc : overCapacity s sel = false) (hs : Inv s) :
    Inv (iterate mode s sel) := by
  obtain ⟨shape, radius, maxW, maxH, pkt, tgt⟩ := hs
  have keeps := sameShape_iterate mode s sel
  have keeps_radius : (iterate mode s sel).radius = s.radius := by rw [iterate_state_frame]
  have keeps_tgt : (iterate mode s sel).tgt = s.tgt := by rw [iterate_state_frame]
  exact ⟨keeps.contextShape shape, keeps_radius ▸ radius, keeps.maxW ▸ maxW, keeps.maxH ▸ maxH,
    iterate_pktWf mode hc pkt, keeps_tgt ▸ tgt⟩

/-- An engine command keeps the invariant: where it iterates, its samples fit below 2^32. -/
theorem inv_engineEffect {mode : Mode} {s : State} (hc : ((selection s).all fun sel => !overCapacity s sel) = true)
    (hs : Inv s) : Inv (engineEffect mode s) := by
  cases h : selection s with
  | none => rwa [engineEffect_of_none h]
  | some sel =>
    rw [engineEffect_of_some h]
    exact inv_iterate (by simpa [h] using hc) hs

/-- The effect of a command whose checks pass keeps the invariant. -/
theorem inv_effectOf {i : Instr} {s : State} (hc : checksPass i s = true) (hs : Inv s) : Inv (effectOf i s) := by
  cases i with
  | openCtx a b =>
    simp only [checksPass, Bool.and_eq_true, Bool.not_eq_true'] at hc
    obtain ⟨_, _, maxW, maxH, pkt, tgt⟩ := hs
    exact ⟨contextShape_newContext hc.1 hc.2, by simp [effectOf], maxW, maxH, pkt, tgt⟩
  | closeCtx => exact ⟨contextShape_dropContext s, hs.2⟩
  | setrad r => exact ⟨hs.1, by simpa [checksPass, effectOf] using hc, hs.2.2⟩
  | wrx k v => exact ⟨(sameShape_writeX k.toNat v s).contextShape hs.1, hs.2⟩
  | wry k v => exact ⟨(sameShape_writeY k.toNat v s).contextShape hs.1, hs.2⟩
  | stepd | stepe =>
    simp only [checksPass, Bool.and_eq_true] at hc
    exact inv_engineEffect hc.2 hs
  | _ => exact hs

/-- Every command keeps the invariant: its response is no part of it, and neither is the `STATUS` bit of an error. -/
theorem inv_exec {i : Instr} {s t : State} (h : exec i s = .next t) (hs : Inv s) : Inv t := by
  rcases exec_next_cases h with ⟨hc, d, rfl⟩ | ⟨_, e, rfl⟩
  · exact inv_effectOf hc hs
  · exact hs

/-- Settles O15, from the same fact about each command's effect. -/
theorem stepKeepsTheInvariant : Obligations.StepKeepsTheInvariant := by
  intro s t hs h
  rcases step_cases h with ⟨_, rfl⟩ | ⟨_, rest, i, _, _, hexec⟩ | ⟨_, _, _, _, _, rfl⟩
  · exact hs
  · exact inv_exec hexec (s := { s with cmds := rest }) hs
  · exact hs

/-! ## The frame of a selected iteration -/

/-- The first maximum lies inside the ruler, at 0 for an empty one. -/
theorem worst_index_le (p : Ruler) (n : Nat) : (worst p n).2 ≤ n := by
  induction n with
  | zero => exact le_rfl
  | succ k ih =>
    rw [worst_succ]
    split
    · exact Nat.le_succ k
    · exact Nat.le_succ_of_le ih

/-- A selection fits the fields `PIVOT` and `MAXERR` of its response. -/
theorem selection_fits {s : State} {sel : Selection} (h : selection s = some sel) :
    sel.pivot < 2 ^ 16 ∧ sel.maxErr < 2 ^ 24 := by
  have hx := worst_index_le s.xErr s.w.toNat
  have hy := worst_index_le s.yErr s.h.toNat
  rcases selection_cases s with ⟨_, _, e⟩ | ⟨_, e⟩ | ⟨_, _, e⟩ <;> rw [e] at h <;> cases h
  · exact ⟨hx.trans_lt s.w.isLt, entry_lt _ _⟩
  · exact ⟨hy.trans_lt s.h.isLt, entry_lt _ _⟩

/-- A field of a word as a number. -/
theorem toNat_placeField {k n lo : Nat} (v : BitVec n) (h : lo + n ≤ k) :
    (placeField k v lo).toNat = v.toNat * 2 ^ lo := by
  have hv : v.toNat * 2 ^ lo < 2 ^ k := calc
    v.toNat * 2 ^ lo < 2 ^ n * 2 ^ lo := Nat.mul_lt_mul_of_pos_right v.isLt (Nat.two_pow_pos lo)
    _ = 2 ^ (lo + n) := by rw [← Nat.pow_add, Nat.add_comm]
    _ ≤ 2 ^ k := Nat.pow_le_pow_right (by omega) h
  rw [placeField, BitVec.toNat_shiftLeft, BitVec.toNat_setWidth_of_le (by omega), Nat.shiftLeft_eq, Nat.mod_eq_of_lt hv]

/-- A field placed above everything else in a word adds to it. -/
theorem toNat_placeField_or {k n lo : Nat} (v : BitVec n) {w : BitVec k} (h : lo + n ≤ k) (hw : w.toNat < 2 ^ lo) :
    (placeField k v lo ||| w).toNat = v.toNat * 2 ^ lo + w.toNat := by
  rw [BitVec.toNat_or, toNat_placeField v h, ← Nat.shiftLeft_eq, Nat.shiftLeft_add_eq_or_of_lt hw]

/-- The selection layout as a number (30_encoding.md R88). -/
theorem toNat_selectionData {sel : Selection} (hp : sel.pivot < 2 ^ 16) (hm : sel.maxErr < 2 ^ 24) :
    (selectionData sel).toNat =
      sel.maxErr * 2 ^ 32 + sel.pivot * 2 ^ 16 + (if sel.axis = .col then 2 else 0) + 1 := by
  have axis : (axisBit sel.axis).toNat * 2 ^ 1 = if sel.axis = .col then 2 else 0 := by cases sel.axis <;> rfl
  have low : (placeField 56 (axisBit sel.axis) 1 ||| placeField 56 1#1 0).toNat =
      (if sel.axis = .col then 2 else 0) + 1 := by
    rw [toNat_placeField_or _ (by omega) (by decide), axis]
    rfl
  have low_lt : (if sel.axis = .col then 2 else 0) + 1 < 2 ^ 16 := by split <;> omega
  have middle : (placeField 56 (BitVec.ofNat 16 sel.pivot) 16 |||
      (placeField 56 (axisBit sel.axis) 1 ||| placeField 56 1#1 0)).toNat =
      sel.pivot * 2 ^ 16 + ((if sel.axis = .col then 2 else 0) + 1) := by
    rw [toNat_placeField_or _ (by omega) (low ▸ low_lt), low, BitVec.toNat_ofNat, Nat.mod_eq_of_lt hp]
  rw [selectionData, BitVec.or_assoc, BitVec.or_assoc, toNat_placeField_or _ (by omega) (by omega), middle,
    BitVec.toNat_ofNat, Nat.mod_eq_of_lt hm]
  omega

/-- The fields of a response with a selection lie side by side, so that the word is their sum (30_encoding.md R84, R88). -/
theorem responseWord_selectionData {sel : Selection} (hp : sel.pivot < 2 ^ 16) (hm : sel.maxErr < 2 ^ 24) :
    responseWord successCode (selectionData sel) =
      BitVec.ofNat 64 (sel.maxErr * 2 ^ 32 + sel.pivot * 2 ^ 16 + (if sel.axis = .col then 2 else 0) + 1) := by
  apply BitVec.eq_of_toNat_eq
  have data := toNat_placeField (k := 64) (lo := 0) (selectionData sel) (by omega)
  have data_lt := (selectionData sel).isLt
  rw [responseWord, toNat_placeField_or _ (by omega) (by omega), data, BitVec.toNat_ofNat, ← toNat_selectionData hp hm,
    Nat.mod_eq_of_lt (by omega)]
  simp [successCode]

/-- An engine command on an open context performs the iteration that is selected and has room. -/
theorem exec_engineInstr_selected (mode : Mode) {s : State} {sel : Selection} (hopen : s.opened = true)
    (hsel : selection s = some sel) (hc : overCapacity s sel = false) :
    exec (engineInstr mode) s = .next (succeed (selectionData sel) (iterate mode s sel)) := by
  have e : exec (engineInstr mode) s = .next (whenOpen s (engineCommand mode s)) := by cases mode <;> rfl
  rw [e, whenOpen_of_open hopen]
  simp [engineCommand, hsel, hc]

theorem rebalanced_of_col {s : State} {sel : Selection} (h : sel.axis = .col) :
    (rebalanced s sel).xErr =
        rebalance s.xErr (expand s.xErr s.w.toNat s.radius.toNat sel.pivot) sel.pivot s.radius.toNat ∧
      (rebalanced s sel).yErr = s.yErr := by
  simp [rebalanced, pivotRange, pivotRuler, pivotLength, h]

theorem rebalanced_of_row {s : State} {sel : Selection} (h : sel.axis = .row) :
    (rebalanced s sel).yErr =
        rebalance s.yErr (expand s.yErr s.h.toNat s.radius.toNat sel.pivot) sel.pivot s.radius.toNat ∧
      (rebalanced s sel).xErr = s.xErr := by
  simp [rebalanced, pivotRange, pivotRuler, pivotLength, h]

/-- Settles O53, from what an iteration writes and what it leaves alone. -/
theorem iterationFrame : Obligations.IterationFrame := by
  intro mode s sel hopen hsel hc
  obtain ⟨hp, hm⟩ := selection_fits hsel
  have response : (succeed (selectionData sel) (iterate mode s sel)).rsps =
      responseWord successCode (selectionData sel) :: s.rsps := by
    rw [succeed_rsps, iterate_state_frame]
  refine ⟨_, exec_engineInstr_selected mode hopen hsel hc, ?_, iterate_pos_toNat mode hc, ?_, fun hcol => ?_,
    fun hrow => ?_, fun hmode => ?_, fun a => iterate_cellAt_outside mode hc, ?_⟩
  · rw [response, responseWord_selectionData hp hm]
  · cases mode with
    | decode => exact iterate_numpix_decode s sel
    | encode => exact iterate_numpix_encode s sel
  · rw [succeed_xErr, succeed_yErr, iterate_xErr, iterate_yErr]
    exact rebalanced_of_col hcol
  · rw [succeed_xErr, succeed_yErr, iterate_xErr, iterate_yErr]
    exact rebalanced_of_row hrow
  · rw [hmode]
    exact iterate_pkt_decode s sel
  · rw [succeed]
    have frame := iterate_state_frame mode s sel
    generalize iterate mode s sel = v at frame ⊢
    rw [frame]
    rfl

end Sys2Proof.Machine

/-! One packet byte (20_memory.md R51 to R53), and the word a step takes off the command channel (20_memory.md R63,
60_exceptions.md R203). -/

namespace Sys2Proof.Machine

/-! ## A packet byte -/

/-- The written byte reads back, whether or not the host held one there (log entry 11). -/
@[simp] theorem pktRead_pktWrite_same (s : State) (a : Nat) (v : Byte) : pktRead (pktWrite s a v) a = v :=
  pktRead_of_cellAt (cellAt_cellSet_same s.pkt a v)

/-- The write leaves what the host holds at any other address. -/
theorem cellAt_pktWrite_other (s : State) {a b : Nat} (v : Byte) (h : b ≠ a) :
    cellAt (pktWrite s a v).pkt b = cellAt s.pkt b :=
  cellAt_cellSet_other s.pkt v h

/-- Any other address reads as before: also where the host holds nothing, for a write stays in the same engine command. -/
theorem pktRead_pktWrite_other (s : State) {a b : Nat} (v : Byte) (h : b ≠ a) :
    pktRead (pktWrite s a v) b = pktRead s b := by
  rw [pktRead, pktRead, cellAt_pktWrite_other s v h, pktWrite_epoch]

/-- Writing a byte inside the packet space keeps its canonical form. -/
theorem pktWf_pktWrite {s : State} {a : Nat} (v : Byte) (h : pktWf s.pkt = true) (ha : a < pktTop) :
    pktWf (pktWrite s a v).pkt = true :=
  cellsWf_cellSet v ha (Nat.zero_le a) h

/-- Settles O35: the laws of one cell, for the written address and for the others. -/
theorem packetReadAfterWrite : Obligations.PacketReadAfterWrite := by
  intro s a v
  exact ⟨pktRead_pktWrite_same s a v,
    fun b hb => ⟨cellAt_pktWrite_other s v hb, pktRead_pktWrite_other s v hb⟩,
    fun hwf ha => pktWf_pktWrite v hwf ha⟩

/-! ## The step of a word -/

/-- A word of the command channel that decodes is performed in the state without it. -/
theorem step_of_decode {s : State} {w : CmdWord} {rest : List CmdWord} {i : Instr} (hc : s.cmds = w :: rest)
    (hd : decode w = .ok i) : step s = exec i { s with cmds := rest } := by
  rw [step_cons hc, hd]

/-- What the opcode table's word decodes to is what the decoder answers for that word. -/
theorem decodeTableWord_eq_some_iff {nbits n : Nat} {i : Instr} :
    decodeTableWord nbits n = some i ↔ decode (tableWord nbits n) = .ok i := by
  rw [decodeTableWord]
  cases decode (tableWord nbits n) <;> simp [Except.toOption]

/-- Taking a placed word off the channel gives the state in which it was placed. -/
theorem withFetchWord_take (s : State) (nbits n : Nat) :
    { s.withFetchWord nbits n with cmds := s.cmds } = s := rfl

/-- Settles O9: the word of the second part is the first of the channel of `withFetchWord`. -/
theorem stepRunsTheDecodedCommand : Obligations.StepRunsTheDecodedCommand := by
  refine ⟨fun s w rest i => step_of_decode, fun s n i _ hd => ?_⟩
  have hc : (s.withFetchWord 64 n).cmds = tableWord 64 n :: s.cmds := placeCommand_cmds _ s
  rw [step_of_decode hc (decodeTableWord_eq_some_iff.mp hd), withFetchWord_take]

end Sys2Proof.Machine

/-! The encoding: the round trips of `decode` and `encode`, the opcode table, illegal words, the byte channel, the assembler, and
the one response of a command word (30_encoding.md R80 to R93, 60_exceptions.md R202 to R204). -/

namespace Sys2Proof

/-! ## A word as its fields side by side -/

/-- The bits of a word below bit `b`, zeros above. -/
def lowBits {k : Nat} (w : BitVec k) (b : Nat) : BitVec k := placeField k (w.extractLsb' 0 b) 0

/-- All bits of a word are the word. -/
theorem lowBits_width {k : Nat} (w : BitVec k) : lowBits w k = w := by
  simp [lowBits, placeField]

/-- A field of zeros leaves a word empty. -/
@[simp] theorem placeField_zero (k n lo : Nat) : placeField k (0#n) lo = 0#k := by
  simp [placeField]

/-- The bits below `c` are the field from `b` to `c` and the bits below `b`. -/
theorem lowBits_split {k : Nat} (w : BitVec k) (b n : Nat) {c : Nat} (h : c = b + n) :
    lowBits w c = placeField k (w.extractLsb' b n) b ||| lowBits w b := by
  subst h
  ext i hi
  simp only [lowBits, BitVec.getElem_or, getElem_placeField, BitVec.getLsbD_extractLsb']
  by_cases hb : i < b
  · simp [hb, show i < b + n by omega]
  · simp [hb, show i - b < n ↔ i < b + n by omega, show b + (i - b) = i by omega]

/-- A word is its opcode byte and the 56 bits below it (30_encoding.md R80). -/
theorem fieldOp_or_lowBits (w : CmdWord) : placeField 64 (fieldOp w) 56 ||| lowBits w 56 = w := calc
  placeField 64 (fieldOp w) 56 ||| lowBits w 56 = lowBits w 64 := (lowBits_split w 56 8 rfl).symm
  _ = w := lowBits_width w

/-- The operand fields of a format, each in its place of the word (30_encoding.md R81). -/
def Format.layout (w : CmdWord) : Format → CmdWord
  | .n => 0#64
  | .d => placeField 64 (fieldA w) 40 ||| placeField 64 (fieldB w) 24
  | .b => placeField 64 (fieldV8 w) 0
  | .v => placeField 64 (fieldV32 w) 0
  | .r => placeField 64 (fieldA w) 40 ||| placeField 64 (fieldV24 w) 0
  | .i => placeField 64 (fieldA w) 40

/-- Below the opcode of a word whose reserved bits are clear stand the operand fields of its format and nothing else. -/
theorem lowBits_eq_layout {f : Format} {w : CmdWord} (h : w &&& f.reservedMask = 0#64) : lowBits w 56 = f.layout w := by
  have hclear := (reserved_clear_iff f w).mp h
  cases f with
  | n => rw [lowBits, hclear, placeField_zero]; rfl
  | d =>
    rw [lowBits_split w 40 16 rfl, lowBits_split w 24 16 rfl, lowBits, hclear, placeField_zero, BitVec.or_zero]
    rfl
  | b => rw [lowBits_split w 8 48 rfl, hclear, placeField_zero, BitVec.zero_or]; rfl
  | v => rw [lowBits_split w 32 24 rfl, hclear, placeField_zero, BitVec.zero_or]; rfl
  | r =>
    rw [lowBits_split w 40 16 rfl, lowBits_split w 24 16 rfl, hclear, placeField_zero, BitVec.zero_or]
    rfl
  | i => rw [lowBits_split w 40 16 rfl, lowBits, hclear, placeField_zero, BitVec.or_zero]; rfl

/-- The word of a command whose operands were read from a word has the opcode and the operand fields of that word. -/
theorem encode_operands (op : Op) (w : CmdWord) :
    encode (op.operands w) = placeField 64 op.code 56 ||| op.format.layout w := by
  cases op <;> simp [encode, Op.operands, Op.format, Format.layout, BitVec.or_assoc]

/-! ## The fields of an encoded word, format by format (30_encoding.md R81) -/

section Fields

variable (c v8 : BitVec 8) (a b : BitVec 16) (v24 : BitVec 24) (v32 : BitVec 32)

@[simp] theorem fieldA_formatI : fieldA (placeField 64 c 56 ||| placeField 64 a 40) = a := by
  simp (disch := omega) [fieldA, extractLsb'_or, extractLsb'_placeField_same, extractLsb'_placeField_below]

@[simp] theorem fieldA_formatD : fieldA (placeField 64 c 56 ||| placeField 64 a 40 ||| placeField 64 b 24) = a := by
  rw [fieldA, extractLsb'_or, extractLsb'_placeField_above b (by omega), BitVec.or_zero]
  exact fieldA_formatI c a

@[simp] theorem fieldB_formatD : fieldB (placeField 64 c 56 ||| placeField 64 a 40 ||| placeField 64 b 24) = b := by
  simp (disch := omega) [fieldB, extractLsb'_or, extractLsb'_placeField_same, extractLsb'_placeField_below]

@[simp] theorem fieldV8_formatB : fieldV8 (placeField 64 c 56 ||| placeField 64 v8 0) = v8 := by
  simp (disch := omega) [fieldV8, extractLsb'_or, extractLsb'_placeField_same, extractLsb'_placeField_below]

@[simp] theorem fieldV32_formatV : fieldV32 (placeField 64 c 56 ||| placeField 64 v32 0) = v32 := by
  simp (disch := omega) [fieldV32, extractLsb'_or, extractLsb'_placeField_same, extractLsb'_placeField_below]

@[simp] theorem fieldA_formatR : fieldA (placeField 64 c 56 ||| placeField 64 a 40 ||| placeField 64 v24 0) = a := by
  rw [fieldA, extractLsb'_or, extractLsb'_placeField_above v24 (by omega), BitVec.or_zero]
  exact fieldA_formatI c a

@[simp] theorem fieldV24_formatR :
    fieldV24 (placeField 64 c 56 ||| placeField 64 a 40 ||| placeField 64 v24 0) = v24 := by
  simp (disch := omega) [fieldV24, extractLsb'_or, extractLsb'_placeField_same, extractLsb'_placeField_below]

end Fields

/-- The operands that stand in the word of a command are the command's. -/
theorem operands_encode (i : Instr) : i.op.operands (encode i) = i := by
  cases i <;> simp [Instr.op, Op.operands, encode]

/-- The word of a command carries its opcode and has its reserved bits clear (30_encoding.md R80, R81, R83). -/
theorem encodedWord (i : Instr) : Laws.EncodedWord.Statement i := by
  cases i with
  | nop => exact Laws.EncodedWord.nop
  | openCtx w h => exact Laws.EncodedWord.openCtx w h
  | closeCtx => exact Laws.EncodedWord.closeCtx
  | setrad r => exact Laws.EncodedWord.setrad r
  | setpos v => exact Laws.EncodedWord.setpos v
  | setsize v => exact Laws.EncodedWord.setsize v
  | clrnp => exact Laws.EncodedWord.clrnp
  | clrst => exact Laws.EncodedWord.clrst
  | wrx i v => exact Laws.EncodedWord.wrx i v
  | wry j v => exact Laws.EncodedWord.wry j v
  | rdx i => exact Laws.EncodedWord.rdx i
  | rdy j => exact Laws.EncodedWord.rdy j
  | rdpix x y => exact Laws.EncodedWord.rdpix x y
  | rdreg n => exact Laws.EncodedWord.rdreg n
  | select => exact Laws.EncodedWord.select
  | stepd => exact Laws.EncodedWord.stepd
  | stepe => exact Laws.EncodedWord.stepe

/-! ## The decoder, from the opcode and the reserved bits -/

/-- A word with an assigned opcode and clear reserved bits is the command of that opcode with the word's operands. -/
theorem decode_of_clear {w : CmdWord} {op : Op} (hop : fieldOp w = op.code)
    (hclear : w &&& op.format.reservedMask = 0#64) : decode w = .ok (op.operands w) := by
  simp [decode, hop, hclear]

/-- A word with an assigned opcode and a set reserved bit is no command (30_encoding.md R83). -/
theorem decode_of_reservedBits {w : CmdWord} {op : Op} (hop : fieldOp w = op.code)
    (hset : w &&& op.format.reservedMask ≠ 0#64) : decode w = .error (.reservedBits op) := by
  simp [decode, hop, hset]

/-- A word with an opcode above 0x10 is no command (30_encoding.md R86). -/
theorem decode_of_reservedOpcode {w : CmdWord} (h : 0x10 < (fieldOp w).toNat) :
    decode w = .error (.reservedOpcode (fieldOp w)) := by
  simp [decode, (ofCode_eq_none_iff _).mpr h]

/-- A word decodes to a command exactly when it has its opcode, clear reserved bits and its operands. -/
theorem decode_eq_ok_iff {w : CmdWord} {i : Instr} :
    decode w = .ok i ↔
      fieldOp w = i.op.code ∧ w &&& i.op.format.reservedMask = 0#64 ∧ i.op.operands w = i := by
  constructor
  · intro h
    rcases decode_cases w with ⟨_, e⟩ | ⟨op, hop, ⟨hclear, e⟩ | ⟨_, e⟩⟩ <;> rw [e] at h <;> cases h
    rw [op_operands]
    exact ⟨(code_of_ofCode hop).symm, hclear, rfl⟩
  · rintro ⟨hop, hclear, hi⟩
    rw [decode_of_clear hop hclear, hi]

/-- A word is a command of an opcode exactly when it has that opcode and clear reserved bits. -/
theorem decodes_to_op_iff {w : CmdWord} {op : Op} :
    (∃ i, decode w = .ok i ∧ i.op = op) ↔ fieldOp w = op.code ∧ w &&& op.format.reservedMask = 0#64 := by
  constructor
  · rintro ⟨i, h, rfl⟩
    obtain ⟨hop, hclear, _⟩ := decode_eq_ok_iff.mp h
    exact ⟨hop, hclear⟩
  · rintro ⟨hop, hclear⟩
    exact ⟨op.operands w, decode_of_clear hop hclear, op_operands w op⟩

/-! ## The round trips -/

/-- Settles O1: the encoded word has the command's opcode, clear reserved bits and the command's operands. -/
theorem decodeOfEncode : Obligations.DecodeOfEncode := by
  intro i
  obtain ⟨hop, hclear⟩ := encodedWord i
  exact decode_eq_ok_iff.mpr ⟨hop, hclear, operands_encode i⟩

/-- Settles O2: a legal word is its opcode and its operand fields, and those make up the encoded word. -/
theorem encodeOfDecode : Obligations.EncodeOfDecode := by
  intro w i h
  obtain ⟨hop, hclear, hi⟩ := decode_eq_ok_iff.mp h
  calc
    encode i = encode (i.op.operands w) := by rw [hi]
    _ = placeField 64 i.op.code 56 ||| i.op.format.layout w := encode_operands i.op w
    _ = placeField 64 (fieldOp w) 56 ||| lowBits w 56 := by rw [hop, lowBits_eq_layout hclear]
    _ = w := fieldOp_or_lowBits w

/-! ## The opcode table (30_encoding.md R85) -/

/-- No two commands share an opcode. -/
theorem code_injective {a b : Op} (h : a.code = b.code) : a = b :=
  Option.some.inj <| by rw [← ofCode_code a, ← ofCode_code b, h]

/-- The bits of a word under a block of ones are its field there. -/
theorem and_block_eq {k : Nat} (w : BitVec k) (lo n : Nat) :
    w &&& placeField k (BitVec.allOnes n) lo = placeField k (w.extractLsb' lo n) lo := by
  ext i hi
  by_cases hlo : i < lo
  · simp [hlo]
  · simp [hlo, show lo + (i - lo) = i by omega, hi, Bool.and_comm]

/-- A word matches under two masks together exactly when it matches under each alone. -/
theorem and_or_eq_iff {k : Nat} {w x y m : BitVec k} (hx : m &&& x = m) (hy : m &&& y = 0#k) :
    w &&& (x ||| y) = m ↔ w &&& x = m ∧ w &&& y = 0#k := by
  constructor
  · intro h
    have absorb_left : (x ||| y) &&& x = x := by ext i hi; grind
    have absorb_right : (x ||| y) &&& y = y := by ext i hi; grind
    constructor
    · rw [← hx, ← h, BitVec.and_assoc, absorb_left]
    · rw [← hy, ← h, BitVec.and_assoc, absorb_right]
  · rintro ⟨hwx, hwy⟩
    rw [BitVec.and_or_distrib_left, hwx, hwy, BitVec.or_zero]

/-- A word matches a row of the table exactly when it has the row's opcode and clear reserved bits. -/
theorem match_iff (w : CmdWord) (op : Op) :
    w &&& op.matchMask = op.matchWord ↔ fieldOp w = op.code ∧ w &&& op.format.reservedMask = 0#64 := by
  have hmask : op.matchMask = placeField 64 (BitVec.allOnes 8) 56 ||| op.format.reservedMask := rfl
  have hcode : w &&& placeField 64 (BitVec.allOnes 8) 56 = op.matchWord ↔ fieldOp w = op.code := by
    rw [and_block_eq, Op.matchWord]
    refine ⟨fun h => ?_, fun h => by rw [← h]; rfl⟩
    rw [← extractLsb'_placeField_same (k := 64) (lo := 56) op.code (by omega), ← h,
      extractLsb'_placeField_same _ (by omega)]
    rfl
  rw [hmask, and_or_eq_iff (by cases op <;> decide) (by cases op <;> decide), hcode]

/-- Settles O3: both sides of the first part say the opcode and the reserved bits, and opcodes differ. -/
theorem opcodeTableDecides : Obligations.OpcodeTableDecides := by
  refine ⟨fun w op => (match_iff w op).trans decodes_to_op_iff.symm, fun w a b ha hb => ?_, fun op => ?_,
    fun w h i hd => ?_, by decide, by decide⟩
  · exact code_injective (((match_iff w a).mp ha).1.symm.trans ((match_iff w b).mp hb).1)
  · cases op <;> decide
  · rw [decode_of_reservedOpcode h] at hd
    cases hd

/-! ## Illegal words (30_encoding.md R83, R86) -/

/-- Every word is one command, or has a reserved opcode, or has an assigned opcode and a set reserved bit. -/
theorem word_classified (w : CmdWord) :
    (∃ i, decode w = .ok i) ∨ 0x11 ≤ (fieldOp w).toNat ∨
      ∃ op : Op, fieldOp w = op.code ∧ w &&& op.format.reservedMask ≠ 0#64 := by
  rcases decode_cases w with ⟨hnone, _⟩ | ⟨op, hop, ⟨_, e⟩ | ⟨hset, _⟩⟩
  · exact .inr (.inl ((ofCode_eq_none_iff _).mp hnone))
  · exact .inl ⟨_, e⟩
  · exact .inr (.inr ⟨op, (code_of_ofCode hop).symm, hset⟩)

/-- A word with a reserved opcode or a set reserved bit is no command. -/
theorem decode_of_illegal {w : CmdWord}
    (h : 0x11 ≤ (fieldOp w).toNat ∨ ∃ op : Op, fieldOp w = op.code ∧ w &&& op.format.reservedMask ≠ 0#64) :
    ∃ e, decode w = .error e := by
  rcases h with hop | ⟨op, hop, hset⟩
  · exact ⟨_, decode_of_reservedOpcode hop⟩
  · exact ⟨_, decode_of_reservedBits hop hset⟩

/-- `E_ILLEGAL` written out (60_exceptions.md R201, R204). -/
theorem Machine.raiseError_illegal (s : Machine.State) : Machine.raiseError .illegal s = Machine.afterIllegal s := rfl

/-- Settles O4: the classification of words, and what a step does with one that is no command. -/
theorem illegalWordEndsWithEIllegal : Obligations.IllegalWordEndsWithEIllegal := by
  refine ⟨word_classified, fun s w rest hc h => ?_⟩
  obtain ⟨e, he⟩ := decode_of_illegal h
  rw [Machine.step_cons hc, he, ← Machine.raiseError_illegal]

/-- Settles O5, by running the decoder on each word. -/
theorem specExampleWordsDecode : Obligations.SpecExampleWordsDecode := by
  unfold Obligations.SpecExampleWordsDecode
  decide

/-! ## The byte channel (30_encoding.md R93) -/

/-- Byte `k` of a word as a number. -/
theorem toNat_wordByte (w : BitVec 64) (k : Nat) : (wordByte w k).toNat = w.toNat / 2 ^ (8 * k) % 256 := by
  rw [wordByte, BitVec.extractLsb'_toNat, Nat.shiftRight_eq_div_pow]

/-- The bytes of a word stand in the order of their numbers. -/
theorem wordBytes_getElem? (w : BitVec 64) {k : Nat} (h : k < 8) : (wordBytes w)[k]? = some (wordByte w k) := by
  interval_cases k <;> rfl

/-- The bytes below bit `b` and the byte at bit `b` are the bytes below the next one. -/
theorem lowBits_or_wordByte (w : BitVec 64) (k : Nat) :
    lowBits w (8 * k) ||| placeField 64 (wordByte w k) (8 * k) = lowBits w (8 * (k + 1)) := by
  rw [BitVec.or_comm, lowBits_split w (8 * k) 8 (Nat.mul_succ 8 k)]
  rfl

/-- The eight bytes of a word give the word back. -/
theorem wordOfBytes_wordBytes (w : BitVec 64) : wordOfBytes (wordBytes w) = some w := by
  have first : placeField 64 (wordByte w 0) 0 = lowBits w (8 * 1) := rfl
  rw [wordBytes, wordOfBytes, first, lowBits_or_wordByte w 1, lowBits_or_wordByte w 2, lowBits_or_wordByte w 3,
    lowBits_or_wordByte w 4, lowBits_or_wordByte w 5, lowBits_or_wordByte w 6, lowBits_or_wordByte w 7]
  exact congrArg some (lowBits_width w)

/-- The decoder reads a word from its bytes. -/
theorem decodeBytes_wordBytes (w : BitVec 64) : decodeBytes (wordBytes w) = decode w := by
  simp only [decodeBytes, wordOfBytes_wordBytes]

/-- Settles O6, from the bytes by number and the word they give back. -/
theorem byteChannelIsLittleEndian : Obligations.ByteChannelIsLittleEndian :=
  ⟨by decide, fun w => ⟨fun k hk => ⟨wordByte w k, wordBytes_getElem? w hk, toNat_wordByte w k⟩, rfl,
    wordOfBytes_wordBytes w, decodeBytes_wordBytes w⟩⟩

/-! ## The assembler (30_encoding.md R90, R91) -/

/-- A line whose operands fit assembles to the words of its commands. -/
theorem assemble_of_wellFormed {a : Asm} (h : a.wellFormed = true) : assemble a = some (a.commands.map encode) := by
  simp [assemble, h]

/-- A line with an operand that does not fit is refused. -/
theorem assemble_of_not_wellFormed {a : Asm} (h : a.wellFormed = false) : assemble a = none := by
  simp [assemble, h]

/-- The words of an accepted line decode to its commands. -/
theorem decode_of_assemble {a : Asm} {ws : List CmdWord} (h : assemble a = some ws) :
    ws.map decode = a.commands.map .ok := by
  cases hwf : a.wellFormed with
  | false => rw [assemble_of_not_wellFormed hwf] at h; cases h
  | true =>
    rw [assemble_of_wellFormed hwf] at h
    cases h
    rw [List.map_map]
    exact List.map_congr_left fun i _ => decodeOfEncode i

/-- A line of one command whose operands fit is the word of that command. -/
theorem assemblesTo_of_commands {a : Asm} {i : Instr} (h : a.wellFormed = true) (hc : a.commands = [i]) :
    Machine.AssemblesTo a i :=
  ⟨encode i, by rw [assemble_of_wellFormed h, hc]; rfl, decodeOfEncode i⟩

/-- The number of a field's value fits the field. -/
@[simp] theorem fitsField_toNat {n : Nat} (v : BitVec n) : fitsField n v.toNat = true :=
  decide_eq_true v.isLt

/-- A number past the end of a field does not fit it. -/
theorem fitsField_of_le {n v : Nat} (h : 2 ^ n ≤ v) : fitsField n v = false :=
  decide_eq_false (Nat.not_lt.mpr h)

/-- One number past the end of its field is enough to refuse two. -/
theorem fitsField_pair_of_le {m n a v : Nat} (h : 2 ^ m ≤ a ∨ 2 ^ n ≤ v) : (fitsField m a && fitsField n v) = false := by
  rcases h with h | h
  · rw [fitsField_of_le h, Bool.false_and]
  · rw [fitsField_of_le h, Bool.and_false]

/-- Which lists `LOADX` and `LOADY` accept. -/
theorem fitsRuler_iff (vs : List Nat) :
    fitsRuler vs = true ↔ vs ≠ [] ∧ vs.length ≤ 65536 ∧ ∀ v ∈ vs, v < 2 ^ 24 := by
  simp [fitsRuler, fitsField, and_assoc]

/-- The words of `LOADX`: one `WRX` per value, at rising indices. -/
theorem loadXFrom_words (vs : List Nat) (k : Nat) :
    (loadXFrom k vs).map encode =
      vs.mapIdx fun j v => encode (.wrx (BitVec.ofNat 16 (k + j)) (BitVec.ofNat 24 v)) := by
  induction vs generalizing k with
  | nil => rfl
  | cons v vs ih =>
    simp only [loadXFrom, List.map_cons, List.mapIdx_cons, ih, Nat.add_zero, Nat.add_assoc, Nat.add_comm 1]

/-- The words of `LOADY`: one `WRY` per value, at rising indices. -/
theorem loadYFrom_words (vs : List Nat) (k : Nat) :
    (loadYFrom k vs).map encode =
      vs.mapIdx fun j v => encode (.wry (BitVec.ofNat 16 (k + j)) (BitVec.ofNat 24 v)) := by
  induction vs generalizing k with
  | nil => rfl
  | cons v vs ih =>
    simp only [loadYFrom, List.map_cons, List.mapIdx_cons, ih, Nat.add_zero, Nat.add_assoc, Nat.add_comm 1]

/-- Settles O7: the list is accepted, and its commands are the writes at indices 0, 1, and so on. -/
theorem loadRulersExpand : Obligations.LoadRulersExpand := by
  intro vs hne hlen hvs
  have hfits : fitsRuler vs = true := (fitsRuler_iff vs).mpr ⟨hne, hlen, hvs⟩
  constructor
  · rw [assemble_of_wellFormed (a := .loadx vs) hfits, Asm.commands, loadXFrom_words]
    simp only [Nat.zero_add]
  · rw [assemble_of_wellFormed (a := .loady vs) hfits, Asm.commands, loadYFrom_words]
    simp only [Nat.zero_add]

/-- A list with a value that does not fit, or too long for the indices, is refused. -/
theorem fitsRuler_of_refused {vs : List Nat} (h : (∃ v ∈ vs, 2 ^ 24 ≤ v) ∨ 65536 < vs.length) : fitsRuler vs = false := by
  rw [← Bool.not_eq_true, fitsRuler_iff]
  rintro ⟨_, hlen, hvs⟩
  rcases h with ⟨v, hv, hle⟩ | hlt
  · exact absurd (hvs v hv) (Nat.not_lt.mpr hle)
  · exact absurd hlen (Nat.not_le.mpr hlt)

/-- A line with a number past the end of its field is refused (30_encoding.md R90). -/
theorem assemble_refuses (a v : Nat) :
    (65536 ≤ a ∨ 65536 ≤ v → assemble (.openCtx a v) = none ∧ assemble (.rdpix a v) = none) ∧
    (65536 ≤ a ∨ 2 ^ 24 ≤ v → assemble (.wrx a v) = none ∧ assemble (.wry a v) = none) ∧
    (65536 ≤ a → assemble (.rdx a) = none ∧ assemble (.rdy a) = none) ∧
    (256 ≤ v → assemble (.setrad v) = none ∧ assemble (.rdreg v) = none) ∧
    (2 ^ 32 ≤ v → assemble (.setpos v) = none ∧ assemble (.setsize v) = none) := by
  refine ⟨fun h => ?_, fun h => ?_, fun h => ?_, fun h => ?_, fun h => ?_⟩
  · have hfit : (fitsField 16 a && fitsField 16 v) = false := fitsField_pair_of_le h
    exact ⟨assemble_of_not_wellFormed hfit, assemble_of_not_wellFormed hfit⟩
  · have hfit : (fitsField 16 a && fitsField 24 v) = false := fitsField_pair_of_le h
    exact ⟨assemble_of_not_wellFormed hfit, assemble_of_not_wellFormed hfit⟩
  · have hfit : fitsField 16 a = false := fitsField_of_le h
    exact ⟨assemble_of_not_wellFormed hfit, assemble_of_not_wellFormed hfit⟩
  · have hfit : fitsField 8 v = false := fitsField_of_le h
    exact ⟨assemble_of_not_wellFormed hfit, assemble_of_not_wellFormed hfit⟩
  · have hfit : fitsField 32 v = false := fitsField_of_le h
    exact ⟨assemble_of_not_wellFormed hfit, assemble_of_not_wellFormed hfit⟩

/-- `RDREG` with a register's name is `RDREG` with its number. -/
theorem assemblesTo_rdregName (r : RegName) : Machine.AssemblesTo (.rdregName r) (.rdreg r.number) :=
  assemblesTo_of_commands rfl rfl

/-- Settles O8: what fits is accepted as the word of its command, what does not is refused. -/
theorem assembledNumbersAreTheOperands : Obligations.AssembledNumbersAreTheOperands := by
  refine ⟨assemble_refuses, fun vs h => ?_, fun a ws => decode_of_assemble, fun x y => ⟨?_, ?_⟩, fun k v => ⟨?_, ?_⟩,
    fun k => ⟨?_, ?_⟩, fun n => ⟨?_, ?_⟩, fun v => ⟨?_, ?_⟩, ?registers, ?plain⟩
  case registers =>
    exact ⟨assemblesTo_rdregName .status, assemblesTo_rdregName .opened, assemblesTo_rdregName .w,
      assemblesTo_rdregName .h, assemblesTo_rdregName .radius, assemblesTo_rdregName .pos, assemblesTo_rdregName .size,
      assemblesTo_rdregName .numpix, assemblesTo_rdregName .maxW, assemblesTo_rdregName .maxH⟩
  case plain => refine ⟨?_, ?_, ?_, ?_, ?_, ?_, ?_⟩ <;> exact assemblesTo_of_commands rfl rfl
  · have hfit := fitsRuler_of_refused h
    exact ⟨assemble_of_not_wellFormed hfit, assemble_of_not_wellFormed hfit⟩
  all_goals exact assemblesTo_of_commands (by simp [Asm.wellFormed]) (by simp [Asm.commands])

end Sys2Proof

namespace Sys2Proof.Machine

/-! ## One response per command word (30_encoding.md R84, 60_exceptions.md R202) -/

/-- `t` has one more response than `s` and the same words to come; the response has a `CODE` of 0 to 5, and `DATA` 0 where
`CODE` is not 0. -/
def AnsweredOnce (s t : State) : Prop :=
  ∃ r, t.rsps = r :: s.rsps ∧ t.cmds = s.cmds ∧ (responseCode r).toNat ≤ 5 ∧
    (responseCode r ≠ 0#8 → responseData r = 0#56)

/-- No effect of a command writes the response channel. -/
theorem effectOf_rsps (i : Instr) (s : State) : (effectOf i s).rsps = s.rsps := by
  cases i with
  | stepd => rw [effectOf_stepd, engineEffect_frame]
  | stepe => rw [effectOf_stepe, engineEffect_frame]
  | _ => rfl

/-- The code of an error is at most 5. -/
theorem errorCode_toNat_le (e : ErrorCode) : e.code.toNat ≤ 5 := by cases e <;> decide

theorem answeredOnce_succeed (d : BitVec 56) (i : Instr) (s : State) : AnsweredOnce s (succeed d (effectOf i s)) := by
  obtain ⟨_, _, _, hcmds⟩ := effectOf_hardwired i s
  refine ⟨responseWord successCode d, ?_, hcmds, ?_, fun h => ?_⟩
  · rw [succeed_rsps, effectOf_rsps]
  · rw [responseCode_responseWord]; decide
  · exact absurd (responseCode_responseWord successCode d) h

theorem answeredOnce_raiseError (e : ErrorCode) (s : State) : AnsweredOnce s (raiseError e s) := by
  refine ⟨responseWord e.code 0#56, raiseError_rsps e s, rfl, ?_, fun _ => responseData_responseWord _ _⟩
  rw [responseCode_responseWord]
  exact errorCode_toNat_le e

/-- Every meaning answers once. -/
theorem exec_answers_once (i : Instr) (s : State) : ∃ t, exec i s = .next t ∧ AnsweredOnce s t := by
  rcases exec_cases i s with ⟨_, d, he⟩ | ⟨_, e, he⟩
  · exact ⟨_, he, answeredOnce_succeed d i s⟩
  · exact ⟨_, he, answeredOnce_raiseError e s⟩

/-- A step that takes a word answers once, legal or not. -/
theorem step_answers_once {s : State} {w : CmdWord} {rest : List CmdWord} (hc : s.cmds = w :: rest) :
    ∃ t, step s = .next t ∧ AnsweredOnce { s with cmds := rest } t := by
  rw [step_cons hc]
  cases decode w with
  | ok i => exact exec_answers_once i _
  | error _ => exact ⟨_, rfl, answeredOnce_raiseError .illegal _⟩

/-- Settles O11, from the one answer of a step. -/
theorem oneResponsePerCommand : Obligations.OneResponsePerCommand := by
  intro s w rest hc
  obtain ⟨t, hstep, r, hrsps, hcmds, hcode, hdata⟩ := step_answers_once hc
  exact ⟨t, r, hstep, hrsps, hcmds, hcode, hdata⟩

end Sys2Proof.Machine

/-! The commands of 40_control.md (R111 to R124): which words run each of them, which words of its opcode are illegal, and
the state after it, from one rule that says what every command answers. -/

namespace Sys2Proof

/-! ## Fields in a wider word -/

/-- A field at bit 0 is the field with zeros above it. -/
theorem placeField_at_zero (k : Nat) {n : Nat} (v : BitVec n) : placeField k v 0 = v.setWidth k := by
  rw [placeField, BitVec.shiftLeft_zero]

/-- Widening a word with a field in it places the field in the wider word. -/
theorem setWidth_placeField {j k n lo : Nat} (v : BitVec n) (hfit : lo + n ≤ j) (hle : j ≤ k) :
    (placeField j v lo).setWidth k = placeField k v lo := by
  apply BitVec.eq_of_toNat_eq
  rw [BitVec.toNat_setWidth_of_le hle, Machine.toNat_placeField v hfit, Machine.toNat_placeField v (hfit.trans hle)]

end Sys2Proof

namespace Sys2Proof.Machine

/-! ## Words on the command channel (30_encoding.md R81, R83) -/

/-- The word of a command runs the command. -/
theorem runsWord_of_encode {i : Instr} {w : CmdWord} (h : encode i = w) : RunsWord w i :=
  fun _ _ hc => step_of_decode hc (h ▸ decodeOfEncode i)

/-- A word of an assigned opcode with a reserved bit of its format set ends with `E_ILLEGAL`. -/
theorem illegalWords_of_op (op : Op) : IllegalWords op.code op.format.reservedMask :=
  fun s w rest hc hop hset => illegalWordEndsWithEIllegal.2 s w rest hc (.inr ⟨op, hop, hset⟩)

/-! ## The two kinds of answer, written out (30_encoding.md R84, 60_exceptions.md R201) -/

theorem raiseError_notOpen (s : State) : raiseError .notOpen s = afterNotOpen s := rfl

theorem raiseError_badArg (s : State) : raiseError .badArg s = afterBadArg s := rfl

theorem raiseError_resource (s : State) : raiseError .resource s = afterResource s := rfl

/-- The response of a success is its data: `CODE` is 0. -/
theorem responseWord_success (d : BitVec 56) : responseWord successCode d = d.setWidth 64 := by
  rw [responseWord, successCode, placeField_zero, BitVec.zero_or, placeField_at_zero]

/-- A success responds with its data, zero-extended. -/
theorem succeed_eq_afterResponse (d : BitVec 56) (s : State) : succeed d s = afterResponse (d.setWidth 64) s := by
  rw [← responseWord_success]; rfl

/-- A value of at most 56 bits that is the data of a success is the response, zero-extended. -/
theorem succeed_setWidth {n : Nat} (v : BitVec n) (hn : n ≤ 56) (s : State) :
    succeed (v.setWidth 56) s = afterResponse (v.setWidth 64) s := by
  rw [succeed_eq_afterResponse, BitVec.setWidth_setWidth (by omega)]

/-! ## What every command answers -/

/-- `DATA` of a command that succeeds (30_encoding.md R84). -/
def dataOf (i : Instr) (s : State) : BitVec 56 :=
  match i with
  | .rdx k => entryData s.xErr k.toNat
  | .rdy k => entryData s.yErr k.toNat
  | .rdpix x y => pixelData (pixel s x.toNat y.toNat)
  | .rdreg n => (regOfNumber n).elim 0#56 fun r => registerData (readRegister s r)
  | .select | .stepd | .stepe => selectData s
  | .nop | .openCtx _ _ | .closeCtx | .setrad _ | .setpos _ | .setsize _ | .clrnp | .clrst | .wrx _ _ | .wry _ _ => 0#56

/-- The error of a refused `OPEN`: a size of 0 is checked before a size too large (40_control.md R112). -/
def openError (a b : BitVec 16) : ErrorCode := if sizeZero a b then .badArg else .resource

/-- The error of a command that passed the open-context check and fails on its own checks (60_exceptions.md R206 to
R208). A command without such checks never raises its value here. -/
def argumentError : Instr → ErrorCode
  | .openCtx a b => openError a b
  | .stepd | .stepe => .capacity
  | .nop | .closeCtx | .setrad _ | .setpos _ | .setsize _ | .clrnp | .clrst | .wrx _ _ | .wry _ _ | .rdx _ | .rdy _
  | .rdpix _ _ | .rdreg _ | .select => .badArg

/-- The error of a command that fails: the open-context check comes first (60_exceptions.md R203). -/
def errorOf (i : Instr) (s : State) : ErrorCode :=
  if i.op.needsOpen && !s.opened then .notOpen else argumentError i

/-- Checks under the open-context check: which of the two failed decides the error. -/
theorem whenOpen_checked (s t : State) (ok : Bool) (e : ErrorCode) :
    whenOpen s (if ok then t else raiseError e s) =
      if s.opened && ok then t else raiseError (if !s.opened then .notOpen else e) s := by
  cases h : s.opened with
  | false => rw [whenOpen_of_closed h]; rfl
  | true => rw [whenOpen_of_open h]; rfl

/-- An engine command on an open context, in terms of its checks, its data and its effect. -/
theorem engineCommand_eq (mode : Mode) (s : State) :
    engineCommand mode s =
      if (selection s).all fun sel => !overCapacity s sel then succeed (selectData s) (engineEffect mode s)
      else raiseError .capacity s := by
  rcases engineCommand_cases mode s with ⟨h, e⟩ | ⟨sel, h, hc, e⟩ | ⟨sel, h, hc, e⟩
  · simp [e, h, selectData, engineEffect]
  · simp [e, h, hc]
  · simp [e, h, hc, selectData, engineEffect]

/-- Every command answers its data in the state of its effect where its checks pass, and its error where they do not. -/
theorem exec_eq (i : Instr) (s : State) :
    exec i s =
      .next (if checksPass i s then succeed (dataOf i s) (effectOf i s) else raiseError (errorOf i s) s) := by
  cases i with
  | nop | closeCtx | setpos | setsize | clrnp | clrst => rw [checksPass, if_pos rfl]; rfl
  | openCtx a b =>
    simp only [exec, execOpen, checksPass, errorOf, argumentError, openError, Instr.op, Op.needsOpen, dataOf, effectOf]
    by_cases hz : sizeZero a b <;> by_cases hl : sizeTooLarge a b s <;> simp [hz, hl]
  | setrad r =>
    simp only [exec, execSetrad, checksPass, errorOf, argumentError, Instr.op, Op.needsOpen, dataOf, effectOf]
    by_cases hr : r = 0#8 <;> simp [hr]
  | rdreg n =>
    simp only [exec, execRdreg, checksPass, errorOf, argumentError, Instr.op, Op.needsOpen, dataOf, effectOf]
    split <;> simp [*]
  | wrx | wry | rdx | rdy | rdpix =>
    simp only [exec, execWrx, execWry, execRdx, execRdy, execRdpix, whenOpen_checked]
    simp only [checksPass, dataOf, effectOf, errorOf, argumentError, Instr.op, Op.needsOpen, Bool.true_and]
  | select =>
    simp only [exec, execSelect, checksPass, dataOf, effectOf, errorOf, Instr.op, Op.needsOpen, Bool.true_and]
    cases h : s.opened <;> simp [h]
  | stepd | stepe =>
    simp only [exec, execStepd, execStepe, engineCommand_eq, whenOpen_checked, ← effectOf_stepd, ← effectOf_stepe]
    simp only [checksPass, dataOf, errorOf, argumentError, Instr.op, Op.needsOpen, Bool.true_and]

theorem exec_of_checksPass {i : Instr} {s : State} (h : checksPass i s = true) :
    exec i s = .next (succeed (dataOf i s) (effectOf i s)) := by
  rw [exec_eq, if_pos h]

theorem exec_of_checksFail {i : Instr} {s : State} (h : checksPass i s = false) :
    exec i s = .next (raiseError (errorOf i s) s) := by
  rw [exec_eq, h]; rfl

/-- A command whose checks pass and that has no data answers 0 in the state of its effect. -/
theorem exec_of_effect {i : Instr} {s : State} (h : checksPass i s = true) (hd : dataOf i s = 0#56) :
    exec i s = .next (afterResponse 0#64 (effectOf i s)) := by
  rw [exec_of_checksPass h, hd]; rfl

/-- A command whose checks pass and that has no effect answers its data, zero-extended. -/
theorem exec_of_data {i : Instr} {s : State} {n : Nat} {v : BitVec n} (h : checksPass i s = true)
    (he : effectOf i s = s) (hd : dataOf i s = v.setWidth 56) (hn : n ≤ 56) :
    exec i s = .next (afterResponse (v.setWidth 64) s) := by
  rw [exec_of_checksPass h, he, hd, succeed_setWidth v hn]

/-- A command that needs an open context fails its checks on a closed block. -/
theorem checksPass_of_closed {i : Instr} {s : State} (hi : i.op.needsOpen = true) (hs : s.opened = false) :
    checksPass i s = false := by
  cases i with
  | wrx | wry | rdx | rdy | rdpix | select | stepd | stepe => simp [checksPass, hs]
  | _ => cases hi

/-- A command that needs an open context answers `E_NOT_OPEN` on a closed block (60_exceptions.md R205). -/
theorem exec_of_closed {i : Instr} {s : State} (hi : i.op.needsOpen = true) (hs : s.opened = false) :
    exec i s = .next (afterNotOpen s) := by
  have he : errorOf i s = .notOpen := by simp [errorOf, hi, hs]
  rw [exec_of_checksFail (checksPass_of_closed hi hs), he, raiseError_notOpen]

/-- Past the open-context check an error is one of the arguments. -/
theorem errorOf_of_context {i : Instr} {s : State} (hctx : (!i.op.needsOpen || s.opened) = true) :
    errorOf i s = argumentError i := by
  have passed : (i.op.needsOpen && !s.opened) = false := by
    cases hi : i.op.needsOpen <;> simp_all
  rw [errorOf, passed]; rfl

/-- A command past the open-context check answers `E_BAD_ARG` where that is its error (60_exceptions.md R206). -/
theorem exec_of_badArg {i : Instr} {s : State} (hctx : (!i.op.needsOpen || s.opened) = true)
    (hc : checksPass i s = false) (he : argumentError i = .badArg) : exec i s = .next (afterBadArg s) := by
  rw [exec_of_checksFail hc, errorOf_of_context hctx, he, raiseError_badArg]

/-- A command past the open-context check answers `E_RESOURCE` where that is its error (60_exceptions.md R207). -/
theorem exec_of_resource {i : Instr} {s : State} (hctx : (!i.op.needsOpen || s.opened) = true)
    (hc : checksPass i s = false) (he : argumentError i = .resource) : exec i s = .next (afterResource s) := by
  rw [exec_of_checksFail hc, errorOf_of_context hctx, he, raiseError_resource]

/-! ## The checks of operands -/

@[simp] theorem columnOk_iff (k : BitVec 16) (s : State) : columnOk k s = true ↔ k.toNat < s.w.toNat :=
  decide_eq_true_iff

@[simp] theorem rowOk_iff (k : BitVec 16) (s : State) : rowOk k s = true ↔ k.toNat < s.h.toNat :=
  decide_eq_true_iff

@[simp] theorem columnOk_eq_false_iff (k : BitVec 16) (s : State) : columnOk k s = false ↔ s.w.toNat ≤ k.toNat := by
  rw [← Bool.not_eq_true, columnOk_iff, Nat.not_lt]

@[simp] theorem rowOk_eq_false_iff (k : BitVec 16) (s : State) : rowOk k s = false ↔ s.h.toNat ≤ k.toNat := by
  rw [← Bool.not_eq_true, rowOk_iff, Nat.not_lt]

@[simp] theorem sizeZero_iff (a b : BitVec 16) : sizeZero a b = true ↔ a = 0#16 ∨ b = 0#16 := by
  simp [sizeZero]

@[simp] theorem sizeTooLarge_iff (a b : BitVec 16) (s : State) :
    sizeTooLarge a b s = true ↔ s.maxW.toNat < a.toNat ∨ s.maxH.toNat < b.toNat := by
  simp [sizeTooLarge]

/-! ## NOP, CLOSE, SETRAD, SETPOS, SETSIZE, CLRNP and CLRST (40_control.md R111, R113 to R118) -/

/-- Settles O17: `NOP` has no checks, no data and no effect. -/
theorem nopCommand : Obligations.NopCommand :=
  ⟨runsWord_of_encode rfl, illegalWords_of_op .nop, fun _ => exec_of_effect rfl rfl⟩

/-- Settles O19: the effect of `CLOSE` is to drop the context. -/
theorem closeCommand : Obligations.CloseCommand :=
  ⟨runsWord_of_encode rfl, illegalWords_of_op .closeCtx, fun _ => exec_of_effect rfl rfl⟩

/-- Settles O20, by whether the operand passes the check. -/
theorem setradCommand : Obligations.SetradCommand := by
  refine ⟨fun r => runsWord_of_encode ?_, illegalWords_of_op .setrad, fun r s => ⟨fun hr => ?_, fun hr => ?_⟩⟩
  · rw [encode, placeField_at_zero]; rfl
  · have hc : checksPass (.setrad r) s = false := by simp [checksPass, hr]
    exact exec_of_badArg rfl hc rfl
  · exact exec_of_effect (by simp [checksPass, hr]) rfl

/-- Settles O21: both commands accept every operand. -/
theorem setposAndSetsizeCommands : Obligations.SetposAndSetsizeCommands := by
  refine ⟨fun v => runsWord_of_encode ?_, fun v => runsWord_of_encode ?_, illegalWords_of_op .setpos,
    illegalWords_of_op .setsize, fun v s => ⟨exec_of_effect rfl rfl, exec_of_effect rfl rfl⟩⟩
  · rw [encode, placeField_at_zero]; rfl
  · rw [encode, placeField_at_zero]; rfl

/-- Settles O22: both commands have no checks and no data. -/
theorem clrnpAndClrstCommands : Obligations.ClrnpAndClrstCommands :=
  ⟨runsWord_of_encode rfl, runsWord_of_encode rfl, illegalWords_of_op .clrnp, illegalWords_of_op .clrst,
    fun _ => ⟨exec_of_effect rfl rfl, exec_of_effect rfl rfl⟩⟩

/-! ## OPEN (40_control.md R112) -/

/-- Every entry of a new ruler is 0, and so is an entry past its end. -/
@[simp] theorem entry_zeroRuler (n k : Nat) : entry (zeroRuler n) k = 0 := by
  rcases Nat.lt_or_ge k n with h | h
  · rw [entry, zeroRuler, List.getD_replicate _ h]; rfl
  · exact entry_of_length_le (by simpa [zeroRuler] using h)

/-- The greatest entry of a ruler of zeros is 0. -/
theorem worst_of_entries_zero {p : Ruler} (h : ∀ k, entry p k = 0) (n : Nat) : (worst p n).1 = 0 := by
  induction n with
  | zero => rfl
  | succ n ih => rw [worst_succ, h, if_neg (Nat.not_lt_zero _), ih]

/-- Nothing is selected where the greatest entry of both rulers is 0 (41_engine.md R153). -/
theorem selection_eq_none {s : State} (hx : (worst s.xErr s.w.toNat).1 = 0) (hy : (worst s.yErr s.h.toNat).1 = 0) :
    selection s = none := by
  rcases selection_cases s with ⟨_, _, h⟩ | ⟨h, _⟩ | ⟨_, h, _⟩
  · exact h
  · omega
  · omega

/-- An engine command on an open context with nothing to refine answers 0 and does nothing. -/
theorem exec_engineInstr_unselected (mode : Mode) {s : State} (hs : s.opened = true) (hsel : selection s = none) :
    exec (engineInstr mode) s = .next (afterResponse 0#64 s) := by
  have hc : checksPass (engineInstr mode) s = true := by cases mode <;> simp [engineInstr, checksPass, hs, hsel]
  have hd : dataOf (engineInstr mode) s = 0#56 := by cases mode <;> simp [engineInstr, dataOf, selectData, hsel]
  have he : effectOf (engineInstr mode) s = s := by cases mode <;> exact engineEffect_of_none hsel
  rw [exec_of_effect hc hd, he]

/-- A new context has nothing to refine. -/
theorem selection_newContext (a b : BitVec 16) (s : State) : selection (newContext a b s) = none :=
  selection_eq_none (worst_of_entries_zero (entry_zeroRuler _) _) (worst_of_entries_zero (entry_zeroRuler _) _)

/-- Every pixel of a new canvas is mid gray (10_state.md R30). -/
theorem grayCanvas_getElem? {w h i j : Nat} (hi : i < w) (hj : j < h) :
    ∃ row, (grayCanvas w h)[j]? = some row ∧ row[i]? = some gray :=
  ⟨List.replicate w gray, List.getElem?_replicate_of_lt hj, List.getElem?_replicate_of_lt hi⟩

/-- Settles O18: the checks in their order, and the parts of the new context one by one. -/
theorem openCommand : Obligations.OpenCommand := by
  refine ⟨fun a b => runsWord_of_encode rfl, illegalWords_of_op .openCtx,
    fun a b s => ⟨fun hzero => ?_, fun ha hb hlarge => ?_, fun ha hb hw hh => ?_⟩⟩
  · have hz : sizeZero a b = true := (sizeZero_iff a b).mpr hzero
    have hc : checksPass (.openCtx a b) s = false := by simp only [checksPass, hz]; rfl
    exact exec_of_badArg rfl hc (if_pos hz)
  · have hz : ¬ sizeZero a b = true := by simp [ha, hb]
    have hl : sizeTooLarge a b s = true := (sizeTooLarge_iff a b s).mpr hlarge
    have hc : checksPass (.openCtx a b) s = false := by simp [checksPass, hl]
    exact exec_of_resource rfl hc (if_neg hz)
  · have hz : sizeZero a b = false := by simp [sizeZero, ha, hb]
    have hl : sizeTooLarge a b s = false := by simp [sizeTooLarge, hw, hh]
    have hc : checksPass (.openCtx a b) s = true := by simp [checksPass, hz, hl]
    have answer : exec (.openCtx a b) s = .next (afterResponse 0#64 (newContext a b s)) := exec_of_effect hc rfl
    exact ⟨_, answer, fun i j => grayCanvas_getElem?, List.length_replicate,
      fun row hrow => by rw [List.eq_of_mem_replicate hrow, List.length_replicate],
      fun i => List.getElem?_replicate_of_lt, List.length_replicate,
      fun j => List.getElem?_replicate_of_lt, List.length_replicate,
      fun mode => exec_engineInstr_unselected mode rfl (selection_newContext a b s), rfl⟩

/-! ## The rulers (40_control.md R119 to R122) -/

/-- Settles O23: on an open block the index alone decides, and the write changes the entry at the index alone. -/
theorem wrxAndWryCommands : Obligations.WrxAndWryCommands := by
  refine ⟨fun k v => ⟨runsWord_of_encode ?_, runsWord_of_encode ?_⟩, illegalWords_of_op .wrx, illegalWords_of_op .wry,
    fun k v s => ⟨fun hs => ⟨exec_of_closed rfl hs, exec_of_closed rfl hs⟩, fun hs hk => ?_, fun hs hk => ?_,
      fun hs hk hlen => ?_, fun hs hk hlen => ?_⟩⟩
  · rw [encode, placeField_at_zero]; rfl
  · rw [encode, placeField_at_zero]; rfl
  · have hc : checksPass (.wrx k v) s = false := by simp [checksPass, hk]
    exact exec_of_badArg hs hc rfl
  · have hc : checksPass (.wry k v) s = false := by simp [checksPass, hk]
    exact exec_of_badArg hs hc rfl
  · have hc : checksPass (.wrx k v) s = true := by simp [checksPass, hs, hk]
    exact ⟨_, exec_of_effect hc rfl, List.getElem?_set_self (hlen ▸ hk), fun n hn => List.getElem?_set_ne hn.symm, rfl⟩
  · have hc : checksPass (.wry k v) s = true := by simp [checksPass, hs, hk]
    exact ⟨_, exec_of_effect hc rfl, List.getElem?_set_self (hlen ▸ hk), fun n hn => List.getElem?_set_ne hn.symm, rfl⟩

/-- The data of an entry that exists. -/
theorem entryData_of_getElem? {p : Ruler} {k : Nat} {v : BitVec 24} (h : p[k]? = some v) :
    entryData p k = v.setWidth 56 := by
  rw [entryData, List.getD_eq_getElem?_getD, h]; rfl

/-- Settles O24: on an open block the index alone decides, and the data is the entry. -/
theorem rdxAndRdyCommands : Obligations.RdxAndRdyCommands := by
  refine ⟨fun k => ⟨runsWord_of_encode rfl, runsWord_of_encode rfl⟩, illegalWords_of_op .rdx, illegalWords_of_op .rdy,
    fun k v s => ⟨fun hs => ⟨exec_of_closed rfl hs, exec_of_closed rfl hs⟩, fun hs hk => ?_, fun hs hk => ?_,
      fun hs hk hv => ?_, fun hs hk hv => ?_⟩⟩
  · have hc : checksPass (.rdx k) s = false := by simp [checksPass, hk]
    exact exec_of_badArg hs hc rfl
  · have hc : checksPass (.rdy k) s = false := by simp [checksPass, hk]
    exact exec_of_badArg hs hc rfl
  · exact exec_of_data (by simp [checksPass, hs, hk]) rfl (entryData_of_getElem? hv) (by omega)
  · exact exec_of_data (by simp [checksPass, hs, hk]) rfl (entryData_of_getElem? hv) (by omega)

/-! ## RDPIX (40_control.md R123) -/

/-- The pixel of a row that exists. -/
theorem pixelOf_of_rows {cv : Canvas} {row : List Pixel} {p : Pixel} {i j : Nat} (hj : cv[j]? = some row)
    (hi : row[i]? = some p) : pixelOf cv i j = p := by
  simp [pixelOf, hj, hi]

/-- The `RDPIX` layout in a response word (30_encoding.md R89). -/
theorem setWidth_pixelData (p : Pixel) :
    (pixelData p).setWidth 64 =
      0x00000000FF000000#64 ||| (p.b.setWidth 64 <<< 16) ||| (p.g.setWidth 64 <<< 8) ||| p.r.setWidth 64 := by
  rw [pixelData, BitVec.setWidth_or, BitVec.setWidth_or, BitVec.setWidth_or, setWidth_placeField _ (by omega) (by omega),
    setWidth_placeField _ (by omega) (by omega), setWidth_placeField _ (by omega) (by omega),
    setWidth_placeField _ (by omega) (by omega), placeField_at_zero]
  rfl

/-- Settles O25: on an open block the coordinates alone decide, and the data is the pixel. -/
theorem rdpixCommand : Obligations.RdpixCommand := by
  refine ⟨fun x y => runsWord_of_encode rfl, illegalWords_of_op .rdpix,
    fun x y row p s => ⟨exec_of_closed rfl, fun hs hxy => ?_, fun hs hx hy hrow hp => ?_⟩⟩
  · have hc : checksPass (.rdpix x y) s = false := by rcases hxy with h | h <;> simp [checksPass, h]
    exact exec_of_badArg hs hc rfl
  · have hd : dataOf (.rdpix x y) s = pixelData p := congrArg pixelData (pixelOf_of_rows hrow hp)
    rw [exec_of_checksPass (by simp [checksPass, hs, hx, hy]), hd, succeed_eq_afterResponse, setWidth_pixelData]
    rfl

/-! ## RDREG (40_control.md R124) -/

/-- The number of a register names it. -/
@[simp] theorem regOfNumber_number (r : RegName) : regOfNumber r.number = some r := by cases r <;> rfl

/-- The numbers above 9 name no register (10_state.md R22). -/
theorem regOfNumber_eq_none_iff (n : BitVec 8) : regOfNumber n = none ↔ 9 < n.toNat := by revert n; decide

/-- `RDREG` with a register's number answers the register, zero-extended. -/
theorem exec_rdreg_number (r : RegName) (s : State) :
    exec (.rdreg r.number) s = .next (afterResponse ((readRegister s r).setWidth 64) s) :=
  exec_of_data (by simp [checksPass]) rfl (by simp [dataOf, registerData]) (by omega)

/-- `RDREG` with a register of at most 32 bits answers it, zero-extended. -/
theorem exec_rdreg_of_value {r : RegName} {s : State} {n : Nat} {v : BitVec n} (hv : readRegister s r = v.setWidth 32)
    (hn : n ≤ 32) : exec (.rdreg r.number) s = .next (afterResponse (v.setWidth 64) s) := by
  rw [exec_rdreg_number, hv, BitVec.setWidth_setWidth (by omega)]

/-- Settles O26, register by register. -/
theorem rdregCommand : Obligations.RdregCommand := by
  refine ⟨fun n => runsWord_of_encode ?_, illegalWords_of_op .rdreg, fun s =>
    ⟨exec_rdreg_of_value (r := .status) rfl (by omega), ?_, exec_rdreg_of_value (r := .w) rfl (by omega),
      exec_rdreg_of_value (r := .h) rfl (by omega), exec_rdreg_of_value (r := .radius) rfl (by omega),
      exec_rdreg_number .pos s, exec_rdreg_number .size s, exec_rdreg_number .numpix s,
      exec_rdreg_of_value (r := .maxW) rfl (by omega), exec_rdreg_of_value (r := .maxH) rfl (by omega), fun n hn => ?_⟩⟩
  · rw [encode, placeField_at_zero]; rfl
  · have hv : (readRegister s .opened).setWidth 64 = if s.opened then 1#64 else 0#64 := by
      cases h : s.opened <;> simp [readRegister, h]
    rw [← hv]
    exact exec_rdreg_number .opened s
  · have hc : checksPass (.rdreg n) s = false := by simp [checksPass, (regOfNumber_eq_none_iff n).mpr hn]
    exact exec_of_badArg rfl hc rfl

end Sys2Proof.Machine

/-! The rulers of the engine: the selector, bounded expansion, the cross lines, and rebalancing (41_engine.md R151 to R162). -/

namespace Sys2Proof.Machine

/-! ## The first maximum (41_engine.md R151) -/

theorem entry_le_worst (p : Ruler) {n k : Nat} (hk : k < n) : entry p k ≤ (worst p n).1 := by
  induction n with
  | zero => omega
  | succ n ih =>
    rw [worst_succ]
    rcases Nat.lt_succ_iff_lt_or_eq.mp hk with hlt | rfl
    · have := ih hlt
      split <;> omega
    · split <;> omega

/-- A maximum that is not 0 is held by its index, and by no lower index. -/
theorem worst_found (p : Ruler) {n : Nat} (h : 0 < (worst p n).1) :
    (worst p n).2 < n ∧ entry p (worst p n).2 = (worst p n).1 ∧
      ∀ k, k < (worst p n).2 → entry p k < (worst p n).1 := by
  induction n with
  | zero => exact absurd h (lt_irrefl 0)
  | succ n ih =>
    rw [worst_succ] at h ⊢
    split
    · next above => exact ⟨Nat.lt_succ_self n, rfl, fun k hk => (entry_le_worst p hk).trans_lt above⟩
    · next notAbove =>
      rw [if_neg notAbove] at h
      obtain ⟨inside, holds, first⟩ := ih h
      exact ⟨inside.trans (Nat.lt_succ_self n), holds, first⟩

/-- The maximum is 0 exactly where every entry is. -/
theorem worst_eq_zero_iff (p : Ruler) (n : Nat) : (worst p n).1 = 0 ↔ ∀ k, k < n → entry p k = 0 := by
  constructor
  · intro h k hk
    exact Nat.le_zero.mp (h ▸ entry_le_worst p hk)
  · intro h
    by_contra hne
    obtain ⟨inside, holds, _⟩ := worst_found p (Nat.pos_of_ne_zero hne)
    exact hne (holds ▸ h _ inside)

/-- The index of a maximum of 0 is 0. -/
theorem worst_index_of_zero (p : Ruler) {n : Nat} (h : (worst p n).1 = 0) : (worst p n).2 = 0 := by
  induction n with
  | zero => rfl
  | succ n ih =>
    rw [worst_succ] at h ⊢
    split
    · next above => rw [if_pos above] at h; dsimp only at h; omega
    · next notAbove => rw [if_neg notAbove] at h; exact ih h

/-- Settles O36, by whether the maximum is 0. -/
theorem worstIsTheFirstMaximum : Obligations.WorstIsTheFirstMaximum := by
  refine fun p n => ⟨fun k => entry_le_worst p, fun ⟨k, hk, hne⟩ => worst_found p ?_, fun hzero => ?_⟩
  · exact (Nat.pos_of_ne_zero hne).trans_le (entry_le_worst p hk)
  · have hmax := (worst_eq_zero_iff p n).mpr hzero
    exact Prod.ext hmax (worst_index_of_zero p hmax)

/-! ## The selection (41_engine.md R152, R155) -/

theorem selection_eq_none_iff (s : State) :
    selection s = none ↔ (worst s.xErr s.w.toNat).1 = 0 ∧ (worst s.yErr s.h.toNat).1 = 0 := by
  refine ⟨fun h => ?_, fun ⟨hx, hy⟩ => selection_eq_none hx hy⟩
  rcases selection_cases s with ⟨hx, hy, _⟩ | ⟨_, e⟩ | ⟨_, _, e⟩
  · exact ⟨hx, hy⟩
  · rw [e] at h; cases h
  · rw [e] at h; cases h

/-- A selected iteration is column-major with the first maximum of `xErr`, above every row's, or row-major with the first
maximum of `yErr`, at least every column's. -/
theorem selection_some_cases {s : State} {sel : Selection} (h : selection s = some sel) :
    (sel.axis = .col ∧ sel.pivot = (worst s.xErr s.w.toNat).2 ∧ sel.maxErr = (worst s.xErr s.w.toNat).1 ∧
      (worst s.yErr s.h.toNat).1 < (worst s.xErr s.w.toNat).1) ∨
    (sel.axis = .row ∧ sel.pivot = (worst s.yErr s.h.toNat).2 ∧ sel.maxErr = (worst s.yErr s.h.toNat).1 ∧
      (worst s.xErr s.w.toNat).1 ≤ (worst s.yErr s.h.toNat).1 ∧ 0 < (worst s.yErr s.h.toNat).1) := by
  rcases selection_cases s with ⟨_, _, e⟩ | ⟨lt, e⟩ | ⟨le, pos, e⟩
  · rw [e] at h; cases h
  · rw [e] at h; cases h
    exact .inl ⟨rfl, rfl, (worst_found s.xErr (by omega)).2.1, lt⟩
  · rw [e] at h; cases h
    exact .inr ⟨rfl, rfl, (worst_found s.yErr pos).2.1, le, pos⟩

/-- Settles O37, from the maxima of the two rulers. -/
theorem selectionChoosesTheAxis : Obligations.SelectionChoosesTheAxis := by
  intro s
  refine ⟨by rw [selection_eq_none_iff, worst_eq_zero_iff, worst_eq_zero_iff], fun sel h => ?_⟩
  have columns (k : Nat) (hk : k < s.w.toNat) := entry_le_worst s.xErr hk
  have rows (k : Nat) (hk : k < s.h.toNat) := entry_le_worst s.yErr hk
  rcases selection_some_cases h with ⟨axis, pivot, maxErr, lt⟩ | ⟨axis, pivot, maxErr, le, pos⟩
  · obtain ⟨inside, holds, first⟩ := worst_found s.xErr (n := s.w.toNat) (by omega)
    rw [axis, pivot, maxErr]
    exact ⟨by omega, columns, fun k hk => (rows k hk).trans lt.le,
      fun _ => ⟨inside, holds, first, fun k hk => (rows k hk).trans_lt lt, rfl, rfl, rfl, rfl⟩, nofun⟩
  · obtain ⟨inside, holds, first⟩ := worst_found s.yErr pos
    rw [axis, pivot, maxErr]
    exact ⟨pos, fun k hk => (columns k hk).trans le, rows, nofun,
      fun _ => ⟨inside, holds, first, rfl, rfl, rfl, rfl⟩⟩

/-- What a selection says of the pivot ruler, on either axis: the pivot lies in it and holds `maxError`, which is not 0. -/
theorem selection_pivot {s : State} {sel : Selection} (h : selection s = some sel) :
    sel.pivot < pivotLength s sel.axis ∧ entry (pivotRuler s sel.axis) sel.pivot = sel.maxErr ∧ 1 ≤ sel.maxErr := by
  obtain ⟨pos, _, _, column, row⟩ := (selectionChoosesTheAxis s).2 sel h
  cases hax : sel.axis with
  | col =>
    obtain ⟨inside, holds, _⟩ := column hax
    exact ⟨inside, holds, pos⟩
  | row =>
    obtain ⟨inside, holds, _⟩ := row hax
    exact ⟨inside, holds, pos⟩

/-! ## Bounded expansion and the cross lines (41_engine.md R156, R159) -/

/-- No entry of the range but perhaps the one at `c` is 0. -/
theorem entry_ne_zero_of_mem_expand {p : Ruler} {n r c k : Nat} (hc : c < n) (lo : (expand p n r c).lo ≤ k)
    (hi : k ≤ (expand p n r c).hi) (hk : k ≠ c) : entry p k ≠ 0 := by
  obtain ⟨_, _, left, _⟩ := expandLeft_spec p r c
  obtain ⟨_, _, _, right, _⟩ := expandRight_spec p n r c hc
  rcases Nat.lt_or_gt_of_ne hk with h | h
  · exact left k lo h
  · exact right k h hi

/-- The range lies around `c`, within the radius and the ruler. -/
theorem expand_bounds (p : Ruler) {n c : Nat} (r : Nat) (hc : c < n) :
    c - r ≤ (expand p n r c).lo ∧ (expand p n r c).lo ≤ c ∧ c ≤ (expand p n r c).hi ∧
      (expand p n r c).hi ≤ c + r ∧ (expand p n r c).hi < n := by
  obtain ⟨lo_le, le_lo, _⟩ := expandLeft_spec p r c
  obtain ⟨le_hi, hi_le, hi_lt, _⟩ := expandRight_spec p n r c hc
  exact ⟨le_lo, lo_le, le_hi, hi_le, hi_lt⟩

/-- Settles O38, from the two loops. -/
theorem expandIsBoundedByZeros : Obligations.ExpandIsBoundedByZeros := by
  intro p n r c hc
  obtain ⟨le_lo, lo_le, le_hi, hi_le, hi_lt⟩ := expand_bounds p r hc
  obtain ⟨_, _, _, stopLeft⟩ := expandLeft_spec p r c
  obtain ⟨_, _, _, _, stopRight⟩ := expandRight_spec p n r c hc
  exact ⟨le_lo, lo_le, le_hi, by omega, fun k => entry_ne_zero_of_mem_expand hc, stopLeft,
    fun h => stopRight (by simp only [expand] at h; omega)⟩

@[simp] theorem mem_crossLines {q : Ruler} {n k : Nat} : k ∈ crossLines q n ↔ k < n ∧ entry q k = 0 := by
  simp [crossLines]

theorem crossLines_pairwise (q : Ruler) (n : Nat) : (crossLines q n).Pairwise (· < ·) :=
  List.pairwise_lt_range.filter _

/-- Settles O39: the cross lines are the exact lines among the indices in their order. -/
theorem crossLinesAreTheExactLines : Obligations.CrossLinesAreTheExactLines :=
  fun q n => ⟨fun _ => mem_crossLines, crossLines_pairwise q n⟩

/-! ## Scaling one entry (41_engine.md R160) -/

@[simp] theorem rnd_one : rnd 1 = 1 := by exact_mod_cast rnd_natCast (n := 1) (by norm_num)

/-- A quotient of at most 1 rounds to at most 1. -/
theorem fdiv_f32_le_one {a b : Nat} (h : a ≤ b) : fdiv (f32 a) (f32 b) ≤ 1 := by
  rw [← rnd_one]
  exact rnd_mono (div_le_one_of_le₀ (by simpa [f32] using h) (Nat.cast_nonneg b))

theorem fdiv_f32_nonneg (a b : Nat) : 0 ≤ fdiv (f32 a) (f32 b) :=
  rnd_nonneg (div_nonneg (Nat.cast_nonneg a) (Nat.cast_nonneg b))

@[simp] theorem rne_zero : rne 0 = 0 := by exact_mod_cast rne_natCast 0

@[simp] theorem scale_zero (x r : Nat) : scale x 0 r = 0 := by simp [scale, f32, fdiv, fmul]

/-- At distance `R` the entry stays: the quotient is exactly 1. -/
theorem scale_radius {x r : Nat} (hx : x < 2 ^ 24) (hr : 1 ≤ r) : scale x r r = x := by
  have hr' : (r : ℚ) ≠ 0 := by positivity
  simp [scale, f32, fdiv, fmul, div_self hr', rnd_natCast hx]

/-- Scaling never grows an entry: the rounded quotient is at most 1, and rounding keeps the order. -/
theorem scale_le {x d r : Nat} (hx : x < 2 ^ 24) (hd : d ≤ r) : scale x d r ≤ x := by
  have product : f32 x * fdiv (f32 d) (f32 r) ≤ f32 x :=
    mul_le_of_le_one_right (Nat.cast_nonneg x) (fdiv_f32_le_one hd)
  have nonneg : 0 ≤ f32 x * fdiv (f32 d) (f32 r) := mul_nonneg (Nat.cast_nonneg x) (fdiv_f32_nonneg d r)
  calc scale x d r ≤ rne (rnd (f32 x)) := rne_mono (rnd_nonneg nonneg) (rnd_mono product)
    _ = x := by rw [f32, rnd_natCast hx, rne_natCast]

/-- Settles O42, from scaling at distance 0, at distance `R`, and between. -/
theorem scaleNeverGrowsAnEntry : Obligations.ScaleNeverGrowsAnEntry :=
  fun x _ r hx hr _ hd => ⟨scale_zero x r, scale_radius hx hr, scale_le hx hd⟩

/-! ## Rebalancing (41_engine.md R161, R162) -/

theorem rescaled_le {x d r : Nat} (hpos : 1 ≤ x) (hx : x < 2 ^ 24) (hd : d ≤ r) : rescaled x d r ≤ x := by
  have := scale_le hx hd
  unfold rescaled
  split <;> omega

theorem rescaled_radius {x r : Nat} (hpos : 1 ≤ x) (hx : x < 2 ^ 24) (hr : 1 ≤ r) : rescaled x r r = x := by
  rw [rescaled, scale_radius hx hr, if_neg (by omega)]

theorem rebalancedEntry_outside {rng : Range} {c r k : Nat} (x : BitVec 24) (hc : k ≠ c) (h : k < rng.lo ∨ rng.hi < k) :
    rebalancedEntry rng c r k x = x := by
  rw [rebalancedEntry, if_neg hc, if_neg (by omega)]

/-- Rebalancing leaves every entry outside the pivot range alone. -/
theorem rebalance_getElem?_outside (p : Ruler) {rng : Range} {c k : Nat} (r : Nat) (hc : k ≠ c)
    (h : k < rng.lo ∨ rng.hi < k) : (rebalance p rng c r)[k]? = p[k]? := by
  rw [rebalance_getElem?, funext fun x => rebalancedEntry_outside x hc h, Option.map_id']

/-- An entry reads its list element alone. -/
theorem entry_congr {p q : Ruler} {k : Nat} (h : p[k]? = q[k]?) : entry p k = entry q k := by
  simp only [entry, List.getD_eq_getElem?_getD, h]

@[simp] theorem entry_rebalance_pivot (p : Ruler) (rng : Range) (c r : Nat) : entry (rebalance p rng c r) c = 0 := by
  rcases Nat.lt_or_ge c p.length with h | h
  · rw [entry_rebalance h, rebalancedEntry, if_pos rfl]; rfl
  · exact entry_of_length_le (by simpa using h)

/-- An entry of the pivot range other than the pivot is its old value rescaled: at most the old value, so that it fits 24
bits. -/
theorem entry_rebalance_inside {p : Ruler} {rng : Range} {c r k : Nat} (lo : rng.lo ≤ k) (hi : k ≤ rng.hi) (hk : k ≠ c)
    (hpos : entry p k ≠ 0) (hd : distance k c ≤ r) :
    entry (rebalance p rng c r) k = rescaled (entry p k) (distance k c) r := by
  have hlt : k < p.length := by
    by_contra h
    exact hpos (entry_of_length_le (Nat.le_of_not_lt h))
  have fits := rescaled_le (Nat.one_le_iff_ne_zero.mpr hpos) (entry_lt p k) hd
  rw [entry_rebalance hlt, rebalancedEntry, if_neg hk, if_pos ⟨lo, hi⟩, ← entry_of_lt hlt, BitVec.toNat_ofNat,
    Nat.mod_eq_of_lt (fits.trans_lt (entry_lt p k))]

/-- Inside the range that `expand` finds, the distance to the pivot is at most the radius. -/
theorem distance_le_of_mem_expand {p : Ruler} {n r c k : Nat} (hc : c < n) (lo : (expand p n r c).lo ≤ k)
    (hi : k ≤ (expand p n r c).hi) : distance k c ≤ r := by
  obtain ⟨_, _, _, _, _⟩ := expand_bounds p r hc
  rw [distance]
  omega

/-- Settles O44: the pivot range holds no zero entry and lies within the radius, where rescaling is bounded. -/
theorem rebalanceKeepsEntriesBounded : Obligations.RebalanceKeepsEntriesBounded := by
  refine fun p r c _ hc => ⟨rebalance_length p _ c r, entry_rebalance_pivot p _ c r, fun k lo hi hk => ?_,
    fun k hk h => rebalance_getElem?_outside p r hk h⟩
  have hpos := entry_ne_zero_of_mem_expand hc lo hi hk
  have hd := distance_le_of_mem_expand hc lo hi
  have hone := Nat.one_le_iff_ne_zero.mpr hpos
  rw [entry_rebalance_inside lo hi hk hpos hd]
  refine ⟨rescaled_pos _ _ _, rescaled_le hone (entry_lt p k) hd, fun hr => ?_⟩
  have apart : 1 ≤ distance k c := by rw [distance]; omega
  rw [hr]
  exact rescaled_radius hone (entry_lt p k) (hr ▸ apart)

/-- Rebalancing around a pivot in the ruler turns the pivot's entry to 0 and keeps which of the others are 0. -/
theorem entry_rebalance_expand_eq_zero_iff (p : Ruler) {n c : Nat} (r k : Nat) (hc : c < n) :
    entry (rebalance p (expand p n r c) c r) k = 0 ↔ entry p k = 0 ∨ k = c := by
  by_cases hk : k = c
  · subst hk
    simp
  simp only [hk, or_false]
  by_cases inside : (expand p n r c).lo ≤ k ∧ k ≤ (expand p n r c).hi
  · obtain ⟨lo, hi⟩ := inside
    have hpos := entry_ne_zero_of_mem_expand hc lo hi hk
    rw [entry_rebalance_inside lo hi hk hpos (distance_le_of_mem_expand hc lo hi)]
    have := rescaled_pos (entry p k) (distance k c) r
    exact iff_of_false (by omega) hpos
  · rw [entry_congr (rebalance_getElem?_outside p r hk (by omega))]

end Sys2Proof.Machine

/-! The rule's loops beside the machine's side-by-side updates (41_engine.md R161, R172, R174): a loop that changes one cell at a
time, each from its own old value, maps every cell of its range. -/

namespace Sys2Proof.Machine

/-! ## Loops that change one cell at a time -/

section Loops
variable {α : Type}

/-- Changing the cells at distinct indices one after another changes each of them from its own old value. -/
theorem getElem?_foldl_modify (f : Nat → α → α) {ks : List Nat} (distinct : ks.Nodup) (l : List α) (j : Nat) :
    (ks.foldl (fun l k => l.modify k (f k)) l)[j]? = l[j]?.map fun x => if j ∈ ks then f j x else x := by
  induction ks generalizing l with
  | nil => simp
  | cons k ks ih =>
    obtain ⟨fresh, distinct⟩ := List.nodup_cons.mp distinct
    rw [List.foldl_cons, ih distinct, List.getElem?_modify, Option.map_eq_map, Option.map_map]
    congr 1
    funext x
    by_cases hj : k = j
    · subst hj
      simp [fresh]
    · simp [hj, Ne.symm hj]

/-- A loop over a range that changes the cell at its own index maps the cells of the range. -/
theorem forRange_modify (lo hi : Nat) (f : Nat → α → α) (l : List α) :
    forRange lo hi (fun l k => l.modify k (f k)) l = l.mapIdx fun k x => if lo ≤ k ∧ k ≤ hi then f k x else x := by
  refine List.ext_getElem? fun j => ?_
  have mem : j ∈ List.range' lo (hi + 1 - lo) ↔ lo ≤ j ∧ j ≤ hi := by rw [List.mem_range'_1]; omega
  rw [forRange, getElem?_foldl_modify f (List.nodup_range' ..), List.getElem?_mapIdx]
  simp only [mem]

/-- A loop that changes one cell only, again and again, changes it once by the whole loop. -/
theorem forRange_modify_same (lo hi j : Nat) (g : α → Nat → α) (l : List α) :
    forRange lo hi (fun l k => l.modify j (g · k)) l = l.modify j (forRange lo hi g ·) := by
  unfold forRange
  generalize List.range' lo (hi + 1 - lo) = ks
  induction ks generalizing l with
  | nil => exact (List.modify_id j l).symm
  | cons k ks ih =>
    rw [List.foldl_cons, ih, List.modify_modify_eq]
    rfl

/-- The bodies of a loop may be exchanged where they agree. -/
theorem forRange_congr {σ : Type} {f g : σ → Nat → σ} {lo hi : Nat} {start : σ}
    (h : ∀ t k, lo ≤ k → k ≤ hi → f t k = g t k) : forRange lo hi f start = forRange lo hi g start := by
  refine List.foldl_ext _ _ _ fun t k hk => ?_
  rw [List.mem_range'_1] at hk
  exact h t k hk.1 (by omega)

/-- Storing a function of the cell's own value. -/
theorem set_getD_eq_modify (l : List α) (k : Nat) (d : α) (f : α → α) : l.set k (f (l.getD k d)) = l.modify k f := by
  refine List.ext_getElem? fun j => ?_
  rw [List.getElem?_set, List.getElem?_modify, Option.map_eq_map]
  split
  · next hj =>
    subst hj
    split
    · next hk => simp [hk]
    · next hk => simp [Nat.le_of_not_lt hk]
  · simp

end Loops

/-! ## Rebalancing (41_engine.md R161) -/

/-- One entry after its iteration of the rule's loop, from the entry before. -/
def loopEntry (c r k : Nat) (x : BitVec 24) : BitVec 24 :=
  BitVec.ofNat 24 (if k ≠ c ∧ scale x.toNat (distance k c) r = 0 then 1 else scale x.toNat (distance k c) r)

theorem loopEntry_of_ne {c k : Nat} (r : Nat) (x : BitVec 24) (h : k ≠ c) :
    loopEntry c r k x = BitVec.ofNat 24 (rescaled x.toNat (distance k c) r) := by
  simp [loopEntry, rescaled, h]

/-- The rule's loop changes each entry from its own old value. -/
theorem rebalanceLoop_eq_mapIdx (p : Ruler) (lo hi c r : Nat) :
    rebalanceLoop p lo hi c r = (p.mapIdx fun k x => if lo ≤ k ∧ k ≤ hi then loopEntry c r k x else x).set c 0#24 := by
  rw [← forRange_modify]
  exact congrArg (List.set · c 0#24) (forRange_congr fun q k _ _ => set_getD_eq_modify q k 0#24 (loopEntry c r k))

theorem rebalance_eq_rebalanceLoop (p : Ruler) (rng : Range) (c r : Nat) :
    rebalance p rng c r = rebalanceLoop p rng.lo rng.hi c r := by
  rw [rebalanceLoop_eq_mapIdx]
  refine List.ext_getElem? fun k => ?_
  rw [rebalance_getElem?, List.getElem?_set]
  by_cases hk : c = k
  · subst hk
    rcases Nat.lt_or_ge c p.length with h | h
    · simp [h, rebalancedEntry]
    · simp [h.not_gt]
  · rw [if_neg hk, List.getElem?_mapIdx]
    congr 1
    funext x
    rw [rebalancedEntry, if_neg (Ne.symm hk), loopEntry_of_ne r x (Ne.symm hk)]

/-- Settles O43, from the loop's effect on one entry. -/
theorem rebalanceIsTheRuleLoop : Obligations.RebalanceIsTheRuleLoop := by
  refine ⟨fun p lo hi c r => ⟨rebalance_eq_rebalanceLoop p ⟨lo, hi⟩ c r, fun k hk outside => ?_⟩,
    fun s sel => ⟨fun hcol => ?_, fun hrow => ?_⟩⟩
  · rw [← rebalance_eq_rebalanceLoop p ⟨lo, hi⟩]
    exact rebalance_getElem?_outside p r hk outside
  · rw [rebalanced, hcol, setPivotRuler_col, rebalance_eq_rebalanceLoop]; rfl
  · rw [rebalanced, hrow, setPivotRuler_row, rebalance_eq_rebalanceLoop]; rfl

/-! ## The blend of one channel (41_engine.md R172) -/

/-- The weighted sum of two bytes has 16 bits. -/
theorem weightedSum_le (s o : Byte) {alpha : Nat} (h : alpha ≤ 256) :
    s.toNat * alpha + o.toNat * (256 - alpha) ≤ 65280 := by
  have hs : s.toNat * alpha ≤ 255 * alpha := Nat.mul_le_mul_right _ (by omega)
  have ho : o.toNat * (256 - alpha) ≤ 255 * (256 - alpha) := Nat.mul_le_mul_right _ (by omega)
  omega

theorem toNat_blendChannel (s o : Byte) {alpha : Nat} (h : alpha ≤ 256) :
    (blendChannel s o alpha).toNat = (s.toNat * alpha + o.toNat * (256 - alpha)) / 256 := by
  have := weightedSum_le s o h
  rw [blendChannel, BitVec.toNat_ofNat, Nat.mod_eq_of_lt (by omega)]

/-- The weighted mean of two values lies between any bounds of both. -/
theorem weightedMean_bounds {a b lo hi alpha : Nat} (h : alpha ≤ 256) (hlo : lo ≤ a ∧ lo ≤ b) (hhi : a ≤ hi ∧ b ≤ hi) :
    lo ≤ (a * alpha + b * (256 - alpha)) / 256 ∧ (a * alpha + b * (256 - alpha)) / 256 ≤ hi := by
  have split (n : Nat) : n * alpha + n * (256 - alpha) = n * 256 := by rw [← Nat.mul_add]; congr 1; omega
  have below := Nat.add_le_add (Nat.mul_le_mul_right alpha hlo.1) (Nat.mul_le_mul_right (256 - alpha) hlo.2)
  have above := Nat.add_le_add (Nat.mul_le_mul_right alpha hhi.1) (Nat.mul_le_mul_right (256 - alpha) hhi.2)
  rw [split] at below above
  omega

@[simp] theorem blendChannel_full (s o : Byte) : blendChannel s o 256 = s := by
  apply BitVec.eq_of_toNat_eq
  rw [toNat_blendChannel s o le_rfl]
  omega

@[simp] theorem blendChannel_none (s o : Byte) : blendChannel s o 0 = o := by
  apply BitVec.eq_of_toNat_eq
  rw [toNat_blendChannel s o (Nat.zero_le _)]
  omega

/-- Settles O50, from the sum and the bounds of a weighted mean. -/
theorem blendIsTheWeightedMean : Obligations.BlendIsTheWeightedMean := by
  intro s o alpha h
  have same : blendChannel s s alpha = s := by
    apply BitVec.eq_of_toNat_eq
    rw [toNat_blendChannel s s h]
    have ⟨lo, hi⟩ := weightedMean_bounds h ⟨le_refl s.toNat, le_refl s.toNat⟩ ⟨le_rfl, le_rfl⟩
    exact le_antisymm hi lo
  have ⟨lo, hi⟩ := weightedMean_bounds h ⟨min_le_left s.toNat o.toNat, min_le_right _ _⟩ ⟨le_max_left _ _, le_max_right _ _⟩
  rw [← toNat_blendChannel s o h] at lo hi
  exact ⟨weightedSum_le s o h, toNat_blendChannel s o h, ⟨blendChannel_full s o, blendChannel_none s o, same⟩, lo, hi⟩

/-! ## A splat (41_engine.md R168 to R172) -/

theorem sq_distance (a b : Nat) : ((distance a b * distance a b : Nat) : Int) = ((a : Int) - b) ^ 2 := by
  rcases Nat.le_total a b with h | h
  · have : distance a b = b - a := by rw [distance]; omega
    rw [this, Nat.cast_mul, Nat.cast_sub h]; ring
  · have : distance a b = a - b := by rw [distance]; omega
    rw [this, Nat.cast_mul, Nat.cast_sub h]; ring

/-- The integer test of the disk, with signed differences. -/
theorem insideDisk_iff (ii jj ci cj r : Nat) :
    insideDisk (distSq ii jj ci cj) r = true ↔ ((ii : Int) - ci) ^ 2 + ((jj : Int) - cj) ^ 2 < (r : Int) ^ 2 := by
  rw [insideDisk, decide_eq_true_iff, ← Int.ofNat_lt, distSq, Nat.cast_add, sq_distance, sq_distance, Nat.cast_mul, sq (r : Int)]

@[simp] theorem inRange_iff (rng : Range) (k : Nat) : inRange rng k = true ↔ rng.lo ≤ k ∧ k ≤ rng.hi := by
  simp [inRange]

/-- The clamp of the weight is a difference of naturals: it acts above 256 alone. -/
theorem blendAlpha_eq (x y m : Nat) : blendAlpha x y m = 256 - rne (fmul 256 (errorWeight x y m)) := by
  rw [blendAlpha]
  omega

/-- The pixel of the region at column `ii`, row `jj` after the splat: blended inside the disk. -/
def diskPixel (p : Splat) (ii jj : Nat) (o : Pixel) : Pixel :=
  if insideDisk (distSq ii jj p.ci p.cj) p.radius then
    blendPixel p.sample o (blendAlpha (entry p.xErr ii) (entry p.yErr jj) p.maxErr)
  else o

/-- The pixels of a row of the region after the splat. -/
def diskRow (p : Splat) (jj : Nat) (row : List Pixel) : List Pixel :=
  row.mapIdx fun ii o => if p.cols.lo ≤ ii ∧ ii ≤ p.cols.hi then diskPixel p ii jj o else o

theorem splatPixel_of_row {p : Splat} {jj : Nat} (hrow : inRange p.rows jj = true) (ii : Nat) (o : Pixel) :
    splatPixel p ii jj o = if p.cols.lo ≤ ii ∧ ii ≤ p.cols.hi then diskPixel p ii jj o else o := by
  rw [splatPixel, splatCovers, hrow, Bool.and_true, diskPixel]
  by_cases hcol : inRange p.cols ii = true
  · rw [hcol, Bool.true_and, if_pos ((inRange_iff ..).mp hcol)]
  · rw [Bool.eq_false_of_not_eq_true hcol, if_neg (mt (inRange_iff ..).mpr hcol)]; rfl

theorem splatCanvas_eq_mapIdx (p : Splat) (c : Canvas) :
    splatCanvas p c = c.mapIdx fun jj row => if p.rows.lo ≤ jj ∧ jj ≤ p.rows.hi then diskRow p jj row else row := by
  unfold splatCanvas
  congr 1
  funext jj row
  by_cases hrow : inRange p.rows jj = true
  · rw [if_pos hrow, if_pos ((inRange_iff ..).mp hrow)]
    simp only [splatPixel_of_row hrow]
    rfl
  · rw [if_neg hrow, if_neg (mt (inRange_iff ..).mpr hrow)]

/-- The rule's assignment changes one pixel from its own old value. -/
theorem blendAt_eq_modify (s : Pixel) (alpha ii jj : Nat) (c : Canvas) :
    blendAt s alpha ii jj c = c.modify jj fun row => row.modify ii (blendPixel s · alpha) := by
  have shift (n : Nat) : n >>> 8 = n / 256 := Nat.shiftRight_eq_div_pow n 8
  have row (l : List Pixel) := set_getD_eq_modify l ii ⟨0#8, 0#8, 0#8⟩ (blendPixel s · alpha)
  simp only [← row, ← set_getD_eq_modify c jj []]
  simp only [blendAt, shift]
  rfl

/-- The body of the rule's two loops, at a pixel of the region. -/
theorem splatBody_eq_modify (p : Splat) (ii jj : Nat) (c : Canvas) :
    (if ((ii : Int) - p.ci) ^ 2 + ((jj : Int) - p.cj) ^ 2 ≥ (p.radius : Int) ^ 2 then c
      else blendAt p.sample
        (256 - rne (fmul 256 (errorWeight (entry p.xErr ii) (entry p.yErr jj) p.maxErr))) ii jj c) =
      c.modify jj fun row => row.modify ii (diskPixel p ii jj) := by
  rw [← blendAlpha_eq, blendAt_eq_modify]
  by_cases h : insideDisk (distSq ii jj p.ci p.cj) p.radius = true
  · have blended : diskPixel p ii jj = (blendPixel p.sample ·
        (blendAlpha (entry p.xErr ii) (entry p.yErr jj) p.maxErr)) := funext fun o => if_pos h
    rw [if_neg (not_le.mpr ((insideDisk_iff ..).mp h)), blended]
  · have kept : diskPixel p ii jj = id := funext fun o => if_neg h
    have row : (fun l : List Pixel => l.modify ii id) = id := funext (List.modify_id ii)
    rw [if_pos (not_lt.mp (mt (insideDisk_iff ..).mpr h)), kept, row, List.modify_id]

/-- The rule's loop over the columns of one row. -/
theorem splatRowLoop_eq_modify (p : Splat) (jj : Nat) (c : Canvas) :
    forRange p.cols.lo p.cols.hi (fun c ii => c.modify jj fun row => row.modify ii (diskPixel p ii jj)) c =
      c.modify jj (diskRow p jj) := by
  have row (l : List Pixel) := forRange_modify p.cols.lo p.cols.hi (diskPixel p · jj) l
  exact (forRange_modify_same p.cols.lo p.cols.hi jj (fun row ii => row.modify ii (diskPixel p ii jj)) c).trans
    (congrArg (c.modify jj) (funext row))

theorem splatCanvas_eq_splatLoop (p : Splat) (c : Canvas) : splatCanvas p c = splatLoop p c := by
  rw [splatCanvas_eq_mapIdx, ← forRange_modify]
  refine (forRange_congr fun c jj _ _ => ?_).symm
  rw [← splatRowLoop_eq_modify]
  exact forRange_congr fun c ii _ _ => splatBody_eq_modify p ii jj c

/-- Settles O51: both loops change one pixel at a time, each from its own old value. -/
theorem splatIsTheRuleLoop : Obligations.SplatIsTheRuleLoop := splatCanvas_eq_splatLoop

/-! ## The pixels of a splat (41_engine.md R167, R172, R183) -/

theorem splatCovers_iff (p : Splat) (i j : Nat) :
    splatCovers p i j = true ↔ (p.cols.lo ≤ i ∧ i ≤ p.cols.hi) ∧ (p.rows.lo ≤ j ∧ j ≤ p.rows.hi) ∧
      ((i : Int) - p.ci) ^ 2 + ((j : Int) - p.cj) ^ 2 < (p.radius : Int) ^ 2 := by
  rw [splatCovers, Bool.and_eq_true, Bool.and_eq_true, inRange_iff, inRange_iff, insideDisk_iff, and_assoc]

/-- A splat keeps the length of every row, also of one that does not exist. -/
theorem getD_splatCanvas_length (p : Splat) (cv : Canvas) (j : Nat) :
    ((splatCanvas p cv).getD j []).length = (cv.getD j []).length := by
  have row : (splatCanvas p cv)[j]?.map List.length = cv[j]?.map List.length := by
    simpa only [rowLengths, List.getElem?_map] using congrArg (fun l : List Nat => l[j]?) (rowLengths_splatCanvas p cv)
  have length (o : Option (List Pixel)) : (o.getD []).length = (o.map List.length).getD 0 := by cases o <;> rfl
  rw [List.getD_eq_getElem?_getD, List.getD_eq_getElem?_getD, length, length, row]

/-- A pixel past the end of its row reads as black. -/
theorem pixelOf_of_length_le {c : Canvas} {i j : Nat} (h : (c.getD j []).length ≤ i) : pixelOf c i j = ⟨0#8, 0#8, 0#8⟩ :=
  List.getD_eq_default _ _ h

/-- A splat leaves every pixel that it does not cover, also one that does not exist. -/
theorem pixelOf_splatCanvas_of_not_covers {p : Splat} {i j : Nat} (h : splatCovers p i j = false) (c : Canvas) :
    pixelOf (splatCanvas p c) i j = pixelOf c i j := by
  rcases Nat.lt_or_ge i (c.getD j []).length with hi | hi
  · have hj : j < c.length := by
      by_contra hj
      rw [List.getD_eq_default _ _ (Nat.le_of_not_lt hj)] at hi
      exact Nat.not_lt_zero i hi
    rw [pixelOf_splatCanvas hj hi, splatPixel, h]; rfl
  · rw [pixelOf_of_length_le hi, pixelOf_of_length_le (by rwa [getD_splatCanvas_length])]

/-- Settles O52, by whether the splat covers the pixel. -/
theorem splatWritesItsDiskOnly : Obligations.SplatWritesItsDiskOnly := by
  refine fun p c i j => ⟨splatCanvas_length p c, getD_splatCanvas_length p c, fun outside => ?_,
    fun colLo colHi rowLo rowHi disk hj hi => ?_⟩
  · refine pixelOf_splatCanvas_of_not_covers ?_ c
    rw [← Bool.not_eq_true, splatCovers_iff]
    omega
  · rw [pixelOf_splatCanvas hj hi, splatPixel, if_pos ((splatCovers_iff ..).mpr ⟨⟨colLo, colHi⟩, ⟨rowLo, rowHi⟩, disk⟩)]

end Sys2Proof.Machine

/-! The weights of the blender in binary32: where the disk ends, and why the blend weight needs no clamp (41_engine.md R168 to
R171). -/

namespace Sys2Proof.Machine

/-! ## Scaling by powers of two is exact -/

/-- The rounding of a positive number has a significand of 24 bits. -/
theorem exists_significand {q : ℚ} (h : 0 < q) : ∃ (m : ℕ) (e : Int), m < 2 ^ 24 ∧ rnd q = m * pow2 e := by
  obtain ⟨lo, hi⟩ := floorLog2_spec h
  have hu := pow2_pos (floorLog2 q - 23)
  have top : pow2 (floorLog2 q + 1) = pow2 (floorLog2 q - 23) * (2 ^ 24 : ℕ) := by
    rw [show floorLog2 q + 1 = floorLog2 q - 23 + 24 by omega, pow2_add]; rfl
  rcases (rnd_mem_binade lo hi).2.eq_or_lt with atTop | below
  · exact ⟨1, floorLog2 q + 1, by norm_num, by rw [atTop]; simp⟩
  · rw [rnd_of_binade lo hi, top] at below
    exact ⟨_, _, by exact_mod_cast lt_of_mul_lt_mul_left below hu.le, (rnd_of_binade lo hi).trans (mul_comm _ _)⟩

/-- A rounded number times a power of two needs no more rounding. -/
theorem rnd_rnd_mul_pow2 {q : ℚ} (h : 0 ≤ q) (k : Int) : rnd (rnd q * pow2 k) = rnd q * pow2 k := by
  rcases h.eq_or_lt with rfl | h
  · simp
  · obtain ⟨m, e, hm, hq⟩ := exists_significand h
    rw [hq, mul_assoc, ← pow2_add]
    exact rnd_of_significand m (e + k) hm

/-! ## The blend weight (41_engine.md R170, R171) -/

/-- The sum of the two shares of `maxError`, before it is halved. -/
def shareSum (x y m : Nat) : F32 := fadd (fdiv (f32 x) (f32 m)) (fdiv (f32 y) (f32 m))

theorem shares_nonneg (x y m : Nat) : 0 ≤ fdiv (f32 x) (f32 m) + fdiv (f32 y) (f32 m) :=
  add_nonneg (fdiv_f32_nonneg x m) (fdiv_f32_nonneg y m)

theorem shareSum_nonneg (x y m : Nat) : 0 ≤ shareSum x y m := rnd_nonneg (shares_nonneg x y m)

theorem shareSum_le_two {x y m : Nat} (hx : x ≤ m) (hy : y ≤ m) : shareSum x y m ≤ 2 := by
  have two : rnd 2 = 2 := by exact_mod_cast rnd_natCast (n := 2) (by norm_num)
  rw [← two]
  exact rnd_mono (by linarith [fdiv_f32_le_one hx, fdiv_f32_le_one hy])

/-- Halving the sum is exact. -/
theorem errorWeight_eq (x y m : Nat) : errorWeight x y m = shareSum x y m / 2 := by
  have half (q : ℚ) : q / 2 = q * pow2 (-1) := by rw [pow2_eq_zpow]; norm_num [div_eq_mul_inv]
  rw [half]
  exact (congrArg rnd (half _)).trans (rnd_rnd_mul_pow2 (shares_nonneg x y m) (-1))

/-- Multiplying the weight by 256 is exact. -/
theorem fmul_errorWeight (x y m : Nat) : fmul 256 (errorWeight x y m) = 256 * errorWeight x y m := by
  have double (q : ℚ) : 256 * (q / 2) = q * pow2 7 := by rw [pow2_eq_zpow]; norm_num; ring
  rw [fmul, errorWeight_eq, double]
  exact rnd_rnd_mul_pow2 (shares_nonneg x y m) 7

/-- Settles O49: the sum of the shares lies in [0, 2], and what follows it is exact. -/
theorem blendWeightNeedsNoClamp : Obligations.BlendWeightNeedsNoClamp := by
  intro x y m _ _ hx hy
  have nonneg : 0 ≤ errorWeight x y m := by rw [errorWeight_eq]; exact div_nonneg (shareSum_nonneg x y m) zero_le_two
  have le_one : errorWeight x y m ≤ 1 := by rw [errorWeight_eq]; linarith [shareSum_le_two hx hy]
  have rounded : rne (256 * errorWeight x y m) ≤ 256 := by
    rw [← rne_natCast 256]
    exact rne_mono (mul_nonneg (by norm_num) nonneg) (by push_cast; linarith)
  exact ⟨nonneg, le_one, errorWeight_eq x y m, fmul_errorWeight x y m, rounded, by rw [blendAlpha_eq, fmul_errorWeight]⟩

/-! ## The disk cut-off (41_engine.md R169) -/

/-- A rounded number is not positive exactly where the number is not. -/
theorem rnd_nonpos_iff (q : ℚ) : rnd q ≤ 0 ↔ q ≤ 0 := by
  refine ⟨fun h => le_of_not_gt fun hq => absurd h (rnd_pos hq).not_ge, fun h => ?_⟩
  rw [← rnd_zero]
  exact rnd_mono h

/-- The greatest binary32 value below 1. -/
theorem rnd_predOne : rnd (1 - 1 / 2 ^ 24) = 1 - 1 / 2 ^ 24 := by
  have h := rnd_of_significand (2 ^ 24 - 1) (-24) (by norm_num)
  rw [pow2_eq_zpow] at h
  norm_num at h ⊢
  exact h

/-- The square root of a positive number is `n` spacings at the root, and the root lies within half a spacing of it. -/
theorem fsqrt_spec {a : ℚ} (h : 0 < a) :
    ∃ (e : Int) (n : ℕ), pow2 e ^ 2 ≤ a ∧ fsqrt a = pow2 (e - 23) * n ∧
      ((n - 1 / 2) * pow2 (e - 23)) ^ 2 ≤ a ∧ a ≤ ((n + 1 / 2) * pow2 (e - 23)) ^ 2 := by
  obtain ⟨lo, hi⟩ := floorLog2_spec h
  have lo' : pow2 (floorLog2 a / 2) ^ 2 ≤ a := by
    rw [sq, ← pow2_add]
    exact (pow2_le_pow2_iff.mpr (by omega)).trans lo
  have hi' : a < pow2 (floorLog2 a / 2 + 1) ^ 2 := by
    rw [sq, ← pow2_add]
    exact hi.trans_le (pow2_le_pow2_iff.mpr (by omega))
  obtain ⟨n, root, below, above, _⟩ :=
    fsqrtIsCorrectlyRounded a (floorLog2 a / 2) (by rwa [← pow2_eq_zpow]) (by rwa [← pow2_eq_zpow])
  rw [← pow2_eq_zpow] at root below above
  exact ⟨_, n, lo', root, below, above⟩

/-- Below `2^(2k)` the exponent of the root is below `k`. -/
theorem exponent_lt_of_sq_le {a : ℚ} {e k : Int} (h : pow2 e ^ 2 ≤ a) (ha : a < pow2 (k + k)) : e < k := by
  rw [sq, ← pow2_add] at h
  have := pow2_lt_pow2_iff.mp (h.trans_lt ha)
  omega

/-- A square root of at least the integer `r` rounds to at least `r`, for `r` is a multiple of the spacing at the root. -/
theorem natCast_le_fsqrt {r : ℕ} {a : ℚ} (hr : 1 ≤ r) (h : (r : ℚ) ^ 2 ≤ a) (ha : a < 2 ^ 46) : (r : ℚ) ≤ fsqrt a := by
  have hr' : (1 : ℚ) ≤ r := by exact_mod_cast hr
  obtain ⟨e, n, lo, root, _, above⟩ := fsqrt_spec (a := a) (by nlinarith)
  have he : e < 23 := exponent_lt_of_sq_le lo (by rw [pow2_eq_zpow]; exact_mod_cast ha)
  obtain ⟨k, hk⟩ := Int.eq_ofNat_of_zero_le (show 0 ≤ 23 - e by omega)
  have hu := pow2_pos (e - 23)
  have multiple : (r : ℚ) = ((r * 2 ^ k : ℕ) : ℚ) * pow2 (e - 23) := by
    have one : pow2 (e - 23) * ((2 ^ k : ℕ) : ℚ) = 1 := by
      rw [← pow2_div_pow2 (e - 23) k, mul_div_cancel₀ _ hu.ne', show e - 23 + (k : Int) = 0 by omega]; rfl
    rw [Nat.cast_mul, mul_assoc, mul_comm _ (pow2 _), one, mul_one]
  rw [multiple] at h ⊢
  have le := le_of_mul_le_mul_right ((pow_le_pow_iff_left₀ (by positivity) (by positivity) two_ne_zero).mp (h.trans above)) hu
  have steps : r * 2 ^ k ≤ n := by
    have : ((2 * (r * 2 ^ k) : ℕ) : ℚ) ≤ ((2 * n + 1 : ℕ) : ℚ) := by push_cast at le ⊢; linarith
    have : 2 * (r * 2 ^ k) ≤ 2 * n + 1 := by exact_mod_cast this
    omega
  rw [root, mul_comm]
  exact mul_le_mul_of_nonneg_left (by exact_mod_cast steps) hu.le

/-- A square root of at most `sqrt (r^2 - 1)` rounds to a number below `r` by more than a rounding step near 1 leaves. -/
theorem fsqrt_le_of_lt_sq {r : ℕ} {a : ℚ} (hpos : 0 < a) (hr : r ≤ 255) (h : a ≤ (r : ℚ) ^ 2 - 1) :
    fsqrt a ≤ r * (1 - 1 / 2 ^ 24) := by
  have hr' : (r : ℚ) ≤ 255 := by exact_mod_cast hr
  have hr0 : (0 : ℚ) ≤ r := Nat.cast_nonneg r
  obtain ⟨e, n, lo, root, below, _⟩ := fsqrt_spec hpos
  have he : e < 8 := exponent_lt_of_sq_le lo (by rw [pow2_eq_zpow]; norm_num; nlinarith)
  have spacing : pow2 (e - 23) ≤ 1 / 2 ^ 16 := by
    calc pow2 (e - 23) ≤ pow2 (-16) := pow2_le_pow2_iff.mpr (by omega)
      _ = 1 / 2 ^ 16 := by rw [pow2_eq_zpow]; norm_num
  rw [root]
  by_contra hlt
  have near : (r : ℚ) - 1 / 2 ^ 15 ≤ (n - 1 / 2) * pow2 (e - 23) := by
    norm_num at spacing hlt ⊢
    linarith
  have one_le : (1 : ℚ) ≤ r := by nlinarith
  have : ((r : ℚ) - 1 / 2 ^ 15) ^ 2 ≤ ((n - 1 / 2) * pow2 (e - 23)) ^ 2 := pow_le_pow_left₀ (by linarith) near 2
  norm_num at this
  linarith

/-- `fillAlpha` is not positive exactly where the rounded root, divided by the radius, does not round below 1. -/
theorem fillAlpha_nonpos_iff (dsq r : Nat) : fillAlpha dsq r ≤ 0 ↔ 1 ≤ rnd (fsqrt dsq / r) := by
  rw [fillAlpha, fsub, rnd_nonpos_iff, sub_nonpos]; rfl

/-- Settles O48: a root of at least `r` gives a quotient of at least 1, and a root of an integer below `r^2` lies so far below
`r` that the quotient rounds below 1. -/
theorem diskCutoffIsAnIntegerTest : Obligations.DiskCutoffIsAnIntegerTest := by
  intro r dsq hr hr255 hdsq
  have hpos : (0 : ℚ) < r := by exact_mod_cast hr
  rw [fillAlpha_nonpos_iff]
  constructor
  · intro h
    by_contra hlt
    have quotient : fsqrt dsq / r ≤ 1 - 1 / 2 ^ 24 := by
      rw [div_le_iff₀' hpos]
      rcases Nat.eq_zero_or_pos dsq with rfl | hd
      · rw [Nat.cast_zero, fsqrt, if_pos rfl]
        exact mul_nonneg hpos.le (by norm_num)
      · refine fsqrt_le_of_lt_sq (by exact_mod_cast hd) hr255 ?_
        have : dsq + 1 ≤ r ^ 2 := by omega
        have : (dsq : ℚ) + 1 ≤ (r : ℚ) ^ 2 := by exact_mod_cast this
        linarith
    have := h.trans (rnd_mono quotient)
    rw [rnd_predOne] at this
    norm_num at this
  · intro h
    have small : dsq < 2 ^ 46 := by nlinarith
    rw [← rnd_one]
    refine rnd_mono ((one_le_div₀ hpos).mpr (natCast_le_fsqrt hr (by exact_mod_cast h) (by exact_mod_cast small)))

end Sys2Proof.Machine

/-! The engine's commands as a whole: what each of them can answer, that the machine runs the rule's own loops, and who writes
the canvas (41_engine.md R153, R154, R176 to R178, R182). -/

namespace Sys2Proof.Machine

/-! ## What an engine command can answer -/

theorem raiseError_capacity (s : State) : raiseError .capacity s = afterCapacity s := rfl

theorem exec_engineInstr (mode : Mode) (s : State) :
    exec (engineInstr mode) s = .next (whenOpen s (engineCommand mode s)) := by
  cases mode <;> rfl

theorem exec_engineInstr_closed (mode : Mode) {s : State} (hs : s.opened = false) :
    exec (engineInstr mode) s = .next (afterNotOpen s) :=
  exec_of_closed (by cases mode <;> rfl) hs

theorem exec_engineInstr_overCapacity (mode : Mode) {s : State} {sel : Selection} (hs : s.opened = true)
    (hsel : selection s = some sel) (hc : overCapacity s sel = true) :
    exec (engineInstr mode) s = .next (afterCapacity s) := by
  rw [exec_engineInstr, whenOpen_of_open hs, engineCommand, hsel]
  simp only [hc, if_true, raiseError_capacity]

/-- Everything an engine command can answer: `E_NOT_OPEN`, 0 where nothing is selected, `E_CAPACITY`, or the selection after its
iteration. -/
theorem exec_engineInstr_cases {mode : Mode} {s t : State} (h : exec (engineInstr mode) s = .next t) :
    (s.opened = false ∧ t = afterNotOpen s) ∨
    (s.opened = true ∧ selection s = none ∧ t = afterResponse 0#64 s) ∨
    (∃ sel, s.opened = true ∧ selection s = some sel ∧ overCapacity s sel = true ∧ t = afterCapacity s) ∨
    (∃ sel, s.opened = true ∧ selection s = some sel ∧ overCapacity s sel = false ∧
      t = succeed (selectionData sel) (iterate mode s sel)) := by
  cases ho : s.opened with
  | false =>
    rw [exec_engineInstr_closed mode ho] at h; cases h
    exact .inl ⟨rfl, rfl⟩
  | true =>
    cases hsel : selection s with
    | none =>
      rw [exec_engineInstr_unselected mode ho hsel] at h; cases h
      exact .inr (.inl ⟨rfl, rfl, rfl⟩)
    | some sel =>
      cases hc : overCapacity s sel with
      | true =>
        rw [exec_engineInstr_overCapacity mode ho hsel hc] at h; cases h
        exact .inr (.inr (.inl ⟨sel, rfl, rfl, hc, rfl⟩))
      | false =>
        rw [exec_engineInstr_selected mode ho hsel hc] at h; cases h
        exact .inr (.inr (.inr ⟨sel, rfl, rfl, hc, rfl⟩))

/-! ## SELECT, and nothing to refine (41_engine.md R153, R154) -/

theorem exec_select_open {s : State} (hs : s.opened = true) : exec .select s = .next (succeed (selectData s) s) :=
  exec_of_checksPass (i := .select) hs

theorem exec_select_unselected {s : State} (hs : s.opened = true) (hsel : selection s = none) :
    exec .select s = .next (afterResponse 0#64 s) := by
  rw [exec_select_open hs, selectData, hsel]; rfl

/-- A success that reports a selection responds with the selection as a number (30_encoding.md R88). -/
theorem succeed_selectionData {sel : Selection} (hp : sel.pivot < 2 ^ 16) (hm : sel.maxErr < 2 ^ 24) (s : State) :
    succeed (selectionData sel) s = afterResponse
      (BitVec.ofNat 64 (sel.maxErr * 2 ^ 32 + sel.pivot * 2 ^ 16 + (if sel.axis = .col then 2 else 0) + 1)) s := by
  rw [← responseWord_selectionData hp hm]; rfl

theorem exec_select_selected {s : State} {sel : Selection} (hs : s.opened = true) (hsel : selection s = some sel) :
    exec .select s = .next (afterResponse
      (BitVec.ofNat 64 (sel.maxErr * 2 ^ 32 + sel.pivot * 2 ^ 16 + (if sel.axis = .col then 2 else 0) + 1)) s) := by
  obtain ⟨hp, hm⟩ := selection_fits hsel
  rw [exec_select_open hs, selectData, hsel]
  exact congrArg _ (succeed_selectionData hp hm s)

/-- Settles O27: `SELECT` and an engine command that is performed respond with the same selection. -/
theorem selectCommand : Obligations.SelectCommand := by
  refine ⟨runsWord_of_encode rfl, illegalWords_of_op .select, fun s => ⟨exec_of_closed rfl, exec_select_unselected,
    fun sel => exec_select_selected, fun hs mode => ?_⟩⟩
  obtain ⟨t, ht⟩ := exec_answers_next (engineInstr mode) s
  refine ⟨t, _, ht, exec_select_open hs, ?_⟩
  rcases exec_engineInstr_cases ht with ⟨hclosed, _⟩ | ⟨_, hsel, rfl⟩ | ⟨sel, _, _, _, rfl⟩ | ⟨sel, _, hsel, _, rfl⟩
  · rw [hs] at hclosed; cases hclosed
  · left; rw [selectData, hsel]; rfl
  · right; rfl
  · left; rw [succeed_rsps, succeed_rsps, selectData, hsel, iterate_state_frame]

/-- Settles O41: where both rulers are 0 nothing is selected. -/
theorem nothingToRefineChangesNothing : Obligations.NothingToRefineChangesNothing := by
  intro s hs hx hy
  have hsel : selection s = none :=
    selection_eq_none ((worst_eq_zero_iff _ _).mpr hx) ((worst_eq_zero_iff _ _).mpr hy)
  exact ⟨exec_engineInstr_unselected .decode hs hsel, exec_engineInstr_unselected .encode hs hsel,
    exec_select_unselected hs hsel⟩

/-! ## The writers of the canvas (41_engine.md R182) -/

theorem effectOf_canvas {i : Instr} (h : i.op ∉ [Op.openCtx, .closeCtx, .stepd, .stepe]) (s : State) :
    (effectOf i s).canvas = s.canvas := by
  cases i with
  | openCtx | closeCtx | stepd | stepe => simp [Instr.op] at h
  | _ => rfl

/-- Settles O34: a step waits, has the effect of a command that is no writer, or raises an error. -/
theorem onlyOpenCloseAndEngineWriteTheCanvas : Obligations.OnlyOpenCloseAndEngineWriteTheCanvas := by
  intro s t h noWriter
  rcases step_cases h with ⟨_, rfl⟩ | ⟨w, rest, i, hcmds, hdec, hexec⟩ | ⟨_, _, _, _, _, rfl⟩
  · rfl
  · rcases exec_next_cases hexec with ⟨_, d, rfl⟩ | ⟨_, e, rfl⟩
    · exact effectOf_canvas (noWriter w rest i hcmds hdec) { s with cmds := rest }
    · rfl
  · rfl

/-! ## What the cross points read (41_engine.md R163, R166) -/

/-- The two states agree on the rulers, their lengths and the radius: all that places and weighs the splats of a walk. -/
structure SameRulers (s t : State) : Prop where
  xErr : t.xErr = s.xErr
  yErr : t.yErr = s.yErr
  w : t.w = s.w
  h : t.h = s.h
  radius : t.radius = s.radius

theorem SameRulers.refl (s : State) : SameRulers s s := ⟨rfl, rfl, rfl, rfl, rfl⟩

theorem SameRulers.symm {s t : State} (h : SameRulers s t) : SameRulers t s :=
  ⟨h.xErr.symm, h.yErr.symm, h.w.symm, h.h.symm, h.radius.symm⟩

theorem SameRulers.trans {s t u : State} (hst : SameRulers s t) (htu : SameRulers t u) : SameRulers s u :=
  ⟨htu.xErr.trans hst.xErr, htu.yErr.trans hst.yErr, htu.w.trans hst.w, htu.h.trans hst.h, htu.radius.trans hst.radius⟩

theorem sameRulers_crossPoint (mode : Mode) (sel : Selection) (rng : Range) (s : State) (k : Nat) :
    SameRulers s (crossPoint mode sel rng s k) :=
  ⟨crossPoint_xErr .., crossPoint_yErr .., crossPoint_w .., crossPoint_h .., crossPoint_radius ..⟩

theorem SameRulers.perpRuler {s t : State} (h : SameRulers s t) (axis : Axis) : perpRuler t axis = perpRuler s axis := by
  cases axis
  · exact h.yErr
  · exact h.xErr

theorem SameRulers.perpLength {s t : State} (h : SameRulers s t) (axis : Axis) : perpLength t axis = perpLength s axis := by
  cases axis
  · exact congrArg BitVec.toNat h.h
  · exact congrArg BitVec.toNat h.w

/-- A splat is placed and weighed by the rulers and the radius alone. -/
theorem SameRulers.splatOf {s t : State} (h : SameRulers s t) (sel : Selection) (rng : Range) (p : Pixel) (k : Nat) :
    splatOf sel rng p t k = splatOf sel rng p s k := by
  simp only [Machine.splatOf, h.perpRuler, h.perpLength, h.xErr, h.yErr, h.radius]

/-- Rebalancing leaves the perpendicular ruler alone. -/
theorem perpRuler_rebalanced (s : State) (sel : Selection) :
    perpRuler (rebalanced s sel) sel.axis = perpRuler s sel.axis := by
  cases h : sel.axis
  · exact (rebalanced_of_col h).2
  · exact (rebalanced_of_row h).2

theorem perpLength_rebalanced (s : State) (sel : Selection) (axis : Axis) :
    perpLength (rebalanced s sel) axis = perpLength s axis := by
  cases axis <;> simp [perpLength]

/-- The canvas after a cross point. -/
theorem crossPoint_canvas (mode : Mode) (sel : Selection) (rng : Range) (s : State) (k : Nat) :
    (crossPoint mode sel rng s k).canvas =
      splatCanvas (splatOf sel rng (takeSample mode (crossColumn sel k) (crossRow sel k) s).1 s k) s.canvas := by
  cases mode <;> rfl

/-! ## The rule's loops (41_engine.md R176, R177) -/

/-- The body of the rule's loop over the cross lines, with the perpendicular ruler `q` of length `nQ` and the radius `r` read
once before the loop. -/
def ruleCrossPoint (mode : Mode) (sel : Selection) (rng : Range) (q : Ruler) (nQ r : Nat) (t : State) (k : Nat) : State :=
  let taken := sampleLine mode (crossColumn sel k) (crossRow sel k) t
  { taken.2 with
    canvas := splatLoop
      { ci := crossColumn sel k, cj := crossRow sel k
        cols := regionColumns sel.axis rng (expand q nQ r k), rows := regionRows sel.axis rng (expand q nQ r k)
        sample := taken.1, xErr := t.xErr, yErr := t.yErr, maxErr := sel.maxErr, radius := r } taken.2.canvas }

theorem crossPoint_eq_rule (mode : Mode) (sel : Selection) (rng : Range) (t : State) (k : Nat) :
    crossPoint mode sel rng t k =
      ruleCrossPoint mode sel rng (perpRuler t sel.axis) (perpLength t sel.axis) t.radius.toNat t k := by
  unfold ruleCrossPoint
  simp only [← splatCanvas_eq_splatLoop]
  cases mode <;> rfl

/-- The machine's walk is the rule's: no cross point writes what the rule reads before its loop. -/
theorem walk_eq_rule (mode : Mode) (sel : Selection) (rng : Range) (ks : List Nat) {s t : State} (h : SameRulers s t) :
    ks.foldl (crossPoint mode sel rng) t =
      ks.foldl (ruleCrossPoint mode sel rng (perpRuler s sel.axis) (perpLength s sel.axis) s.radius.toNat) t := by
  induction ks generalizing t with
  | nil => rfl
  | cons k ks ih =>
    rw [List.foldl_cons, List.foldl_cons, ih (h.trans (sameRulers_crossPoint mode sel rng t k)), crossPoint_eq_rule,
      h.perpRuler, h.perpLength, h.radius]

/-- An iteration with the rule's loops in it. -/
theorem iterate_eq_rule (mode : Mode) (s : State) (sel : Selection) :
    iterate mode s sel =
      let walked := (crossOf s sel).foldl
        (ruleCrossPoint mode sel (pivotRange s sel) (perpRuler s sel.axis) (perpLength s sel.axis) s.radius.toNat)
        (setPivotRuler s sel.axis
          (rebalanceLoop (pivotRuler s sel.axis) (pivotRange s sel).lo (pivotRange s sel).hi sel.pivot s.radius.toNat))
      { walked with epoch := walked.epoch + 1 } := by
  rw [← rebalance_eq_rebalanceLoop, iterate, walk_eq_rule mode sel _ _ (SameRulers.refl (rebalanced s sel)),
    perpRuler_rebalanced, perpLength_rebalanced, rebalanced_radius]
  rfl

/-- An engine command with a selection, with the rule's loops in it. -/
theorem engineCommand_of_selected (mode : Mode) {s : State} {sel : Selection} (h : selection s = some sel) :
    engineCommand mode s =
      if 0 < (crossOf s sel).length ∧ s.pos.toNat + 3 * (crossOf s sel).length > s.size.toNat then afterCapacity s
      else succeed (selectionData sel) (iterate mode s sel) := by
  have check : overCapacity s sel = true ↔
      0 < (crossOf s sel).length ∧ s.pos.toNat + 3 * (crossOf s sel).length > s.size.toNat := by simp [overCapacity]
  simp only [engineCommand, h, check, raiseError_capacity]

theorem engineCommand_eq_engineLoop (mode : Mode) (s : State) : engineCommand mode s = engineLoop mode s := by
  rcases selection_cases s with ⟨hx, hy, hsel⟩ | ⟨hlt, hsel⟩ | ⟨hle, hpos, hsel⟩
  · simp only [engineCommand, hsel, engineLoop, hx, hy]
    rfl
  · obtain ⟨hp, hm⟩ := selection_fits hsel
    rw [engineCommand_of_selected mode hsel, succeed_selectionData hp hm, iterate_eq_rule]
    have hne : (worst s.xErr s.w.toNat).1 + (worst s.yErr s.h.toNat).1 ≠ 0 := by omega
    simp only [engineLoop, gt_iff_lt, if_neg hne, if_pos hlt, if_true, Nat.one_mul]
    rfl
  · obtain ⟨hp, hm⟩ := selection_fits hsel
    rw [engineCommand_of_selected mode hsel, succeed_selectionData hp hm, iterate_eq_rule]
    have hne : (worst s.xErr s.w.toNat).1 + (worst s.yErr s.h.toNat).1 ≠ 0 := by omega
    simp only [engineLoop, gt_iff_lt, if_neg hne, if_neg (Nat.not_lt.mpr hle), reduceCtorEq, if_false, Nat.zero_mul]
    rfl

theorem exec_engineInstr_open (mode : Mode) {s : State} (hs : s.opened = true) :
    exec (engineInstr mode) s = .next (engineLoop mode s) := by
  rw [exec_engineInstr, whenOpen_of_open hs, engineCommand_eq_engineLoop]

/-- Settles O28: the machine's engine command is the rule's loops. -/
theorem stepdCommand : Obligations.StepdCommand :=
  ⟨runsWord_of_encode rfl, illegalWords_of_op .stepd,
    fun _ => ⟨exec_of_closed rfl, exec_engineInstr_open .decode⟩⟩

/-- Settles O29: the machine's engine command is the rule's loops. -/
theorem stepeCommand : Obligations.StepeCommand :=
  ⟨runsWord_of_encode rfl, illegalWords_of_op .stepe,
    fun _ => ⟨exec_of_closed rfl, exec_engineInstr_open .encode⟩⟩

end Sys2Proof.Machine

/-! What follows from the rules for whole iterations: exact pixels are kept, one entry more is exact, and every cross point ends
as its sample (41_engine.md R173, R179 to R181). -/

namespace Sys2Proof.Machine

/-! ## Exact lines (41_engine.md R157, R162) -/

/-- The pivot range holds no zero entry: the pivot's own is `maxError`. -/
theorem entry_ne_zero_of_mem_pivotRange {s : State} {sel : Selection} {k : Nat} (hsel : selection s = some sel)
    (lo : (pivotRange s sel).lo ≤ k) (hi : k ≤ (pivotRange s sel).hi) : entry (pivotRuler s sel.axis) k ≠ 0 := by
  obtain ⟨inside, holds, pos⟩ := selection_pivot hsel
  by_cases hk : k = sel.pivot
  · rw [hk, holds]
    exact Nat.one_le_iff_ne_zero.mp pos
  · exact entry_ne_zero_of_mem_expand inside lo hi hk

/-- Rebalancing turns the pivot's entry to 0, and no other entry from or to 0. -/
theorem entry_rebalanced_eq_zero_iff {s : State} {sel : Selection} (hsel : selection s = some sel) (k : Nat) :
    entry (pivotRuler (rebalanced s sel) sel.axis) k = 0 ↔ entry (pivotRuler s sel.axis) k = 0 ∨ k = sel.pivot := by
  obtain ⟨inside, _⟩ := selection_pivot hsel
  have ruler : pivotRuler (rebalanced s sel) sel.axis =
      rebalance (pivotRuler s sel.axis) (pivotRange s sel) sel.pivot s.radius.toNat := by
    unfold rebalanced
    cases sel.axis <;> rfl
  rw [ruler]
  exact entry_rebalance_expand_eq_zero_iff (pivotRuler s sel.axis) s.radius.toNat k inside

/-- The exact columns and the exact rows after an iteration: the pivot is one more of them. -/
theorem entry_iterate_eq_zero_iff (mode : Mode) {s : State} {sel : Selection} (hsel : selection s = some sel) (k : Nat) :
    (entry (iterate mode s sel).xErr k = 0 ↔ entry s.xErr k = 0 ∨ sel.axis = .col ∧ k = sel.pivot) ∧
      (entry (iterate mode s sel).yErr k = 0 ↔ entry s.yErr k = 0 ∨ sel.axis = .row ∧ k = sel.pivot) := by
  have pivot := entry_rebalanced_eq_zero_iff hsel k
  have perp := perpRuler_rebalanced s sel
  rw [iterate_xErr, iterate_yErr]
  cases hax : sel.axis with
  | col =>
    rw [hax] at pivot perp
    simp only [pivotRuler, perpRuler] at pivot perp
    simp [pivot, perp]
  | row =>
    rw [hax] at pivot perp
    simp only [pivotRuler, perpRuler] at pivot perp
    simp [pivot, perp]

/-! ## Exact pixels (41_engine.md R180) -/

/-- A walk leaves a pixel that none of its splats covers. -/
theorem walk_pixel_of_not_covers (mode : Mode) (sel : Selection) (rng : Range) (ks : List Nat) {s t : State} {i j : Nat}
    (same : SameRulers s t) (away : ∀ k ∈ ks, ∀ p, splatCovers (splatOf sel rng p s k) i j = false) :
    pixel (ks.foldl (crossPoint mode sel rng) t) i j = pixel t i j := by
  induction ks generalizing t with
  | nil => rfl
  | cons k ks ih =>
    have here : pixel (crossPoint mode sel rng t k) i j = pixel t i j := by
      rw [pixel, crossPoint_canvas, same.splatOf]
      exact pixelOf_splatCanvas_of_not_covers (away k List.mem_cons_self _) t.canvas
    rw [List.foldl_cons, ih (same.trans (sameRulers_crossPoint mode sel rng t k))
      fun k' hk' => away k' (List.mem_cons_of_mem k hk'), here]

/-- No splat covers a pixel whose column and row are both exact: on the pivot's axis its region is the pivot range, which holds
no exact line. -/
theorem splatOf_not_covers_exact {s : State} {sel : Selection} {i j : Nat} (hsel : selection s = some sel)
    (hi : entry s.xErr i = 0) (hj : entry s.yErr j = 0) (p : Pixel) (t : State) (k : Nat) :
    splatCovers (splatOf sel (pivotRange s sel) p t k) i j = false := by
  have noZero (n : Nat) := entry_ne_zero_of_mem_pivotRange (k := n) hsel
  rw [← Bool.not_eq_true, splatCovers_iff]
  rintro ⟨⟨colLo, colHi⟩, ⟨rowLo, rowHi⟩, _⟩
  simp only [splatOf] at colLo colHi rowLo rowHi
  cases hax : sel.axis with
  | col =>
    rw [hax] at noZero colLo colHi
    exact noZero i colLo colHi hi
  | row =>
    rw [hax] at noZero rowLo rowHi
    exact noZero j rowLo rowHi hj

/-- An iteration keeps every pixel whose column and row are both exact. -/
theorem pixel_iterate_of_exact (mode : Mode) {s : State} {sel : Selection} {i j : Nat} (hsel : selection s = some sel)
    (hi : entry s.xErr i = 0) (hj : entry s.yErr j = 0) : pixel (iterate mode s sel) i j = pixel s i j := by
  have walk := walk_pixel_of_not_covers mode sel (pivotRange s sel) (crossOf s sel) (SameRulers.refl (rebalanced s sel))
    fun k _ p => splatOf_not_covers_exact hsel hi hj p (rebalanced s sel) k
  exact walk.trans (congrArg (pixelOf · i j) (rebalanced_canvas s sel))

/-- Settles O56: only an iteration writes rulers and canvas, and it keeps exact lines and the pixels where two of them cross. -/
theorem exactPixelsAreKept : Obligations.ExactPixelsAreKept := by
  intro mode s t i j h hi hj
  rcases exec_engineInstr_cases h with ⟨_, rfl⟩ | ⟨_, _, rfl⟩ | ⟨_, _, _, _, rfl⟩ | ⟨sel, _, hsel, _, rfl⟩
  · exact ⟨rfl, hi, hj⟩
  · exact ⟨rfl, hi, hj⟩
  · exact ⟨rfl, hi, hj⟩
  · exact ⟨pixel_iterate_of_exact mode hsel hi hj, (entry_iterate_eq_zero_iff mode hsel i).1.mpr (.inl hi),
      (entry_iterate_eq_zero_iff mode hsel j).2.mpr (.inl hj)⟩

/-! ## Progress (41_engine.md R179) -/

theorem entry_eq_zero_iff {p : Ruler} {k : Nat} (h : k < p.length) : entry p k = 0 ↔ p[k] = 0#24 := by
  rw [entry_of_lt h, ← BitVec.toNat_inj]; rfl

/-- Two rulers of one length with the same zero entries have as many that are not 0. -/
theorem nonzeroCount_congr {p q : Ruler} (hlen : q.length = p.length) (h : ∀ k, entry q k = 0 ↔ entry p k = 0) :
    nonzeroCount q = nonzeroCount p := by
  have bits : q.map (· != 0#24) = p.map (· != 0#24) := by
    refine List.ext_getElem (by simpa using hlen) fun k hq hp => ?_
    rw [List.length_map] at hq hp
    have := h k
    rw [entry_eq_zero_iff hq, entry_eq_zero_iff hp] at this
    rw [List.getElem_map, List.getElem_map, bne, bne, Bool.not_inj_iff, Bool.eq_iff_iff, beq_iff_eq, beq_iff_eq, this]
  have count (l : Ruler) : nonzeroCount l = (l.map (· != 0#24)).countP id := by rw [List.countP_map]; rfl
  rw [count, count, bits]

/-- A ruler with one zero entry more has one entry fewer that is not 0. -/
theorem nonzeroCount_of_one_more_zero {p q : Ruler} {c : Nat} (hlen : q.length = p.length) (hc : entry p c ≠ 0)
    (h : ∀ k, entry q k = 0 ↔ entry p k = 0 ∨ k = c) : nonzeroCount q + 1 = nonzeroCount p := by
  have hlt : c < p.length := by
    by_contra hge
    exact hc (entry_of_length_le (Nat.le_of_not_lt hge))
  have nonzero : (p[c] != 0#24) = true := bne_iff_ne.mpr (mt (entry_eq_zero_iff hlt).mpr hc)
  have counted : 0 < nonzeroCount p := List.countP_pos_iff.mpr ⟨p[c], List.getElem_mem hlt, nonzero⟩
  have cleared : nonzeroCount q = nonzeroCount (p.set c 0#24) := by
    refine nonzeroCount_congr (by rw [List.length_set, hlen]) fun k => (h k).trans ?_
    rw [entry, entry, List.getD_eq_getElem?_getD, List.getD_eq_getElem?_getD, List.getElem?_set]
    by_cases hk : c = k
    · subst hk
      simp [hlt]
    · simp [hk, Ne.symm hk]
  rw [cleared, nonzeroCount, List.countP_set hlt, if_pos nonzero]
  simp only [bne_self_eq_false, Bool.false_eq_true, if_false, Nat.add_zero]
  exact Nat.sub_add_cancel counted

/-- How many entries of both rulers are not exact: what is left to refine. -/
def workLeft (s : State) : Nat := nonzeroCount s.xErr + nonzeroCount s.yErr

/-- An iteration leaves one entry fewer to refine. -/
theorem workLeft_iterate (mode : Mode) {s : State} {sel : Selection} (hsel : selection s = some sel) :
    workLeft (iterate mode s sel) + 1 = workLeft s := by
  obtain ⟨_, holds, pos⟩ := selection_pivot hsel
  have nonzero : entry (pivotRuler s sel.axis) sel.pivot ≠ 0 := holds ▸ Nat.one_le_iff_ne_zero.mp pos
  have shape := sameShape_iterate mode s sel
  have zeros := entry_iterate_eq_zero_iff mode hsel
  unfold workLeft
  cases hax : sel.axis with
  | col =>
    simp only [hax, reduceCtorEq, true_and, false_and, or_false] at zeros
    rw [hax] at nonzero
    have := nonzeroCount_of_one_more_zero shape.xErr nonzero fun k => (zeros k).1
    have := nonzeroCount_congr shape.yErr fun k => (zeros k).2
    omega
  | row =>
    simp only [hax, reduceCtorEq, true_and, false_and, or_false] at zeros
    rw [hax] at nonzero
    have := nonzeroCount_of_one_more_zero shape.yErr nonzero fun k => (zeros k).2
    have := nonzeroCount_congr shape.xErr fun k => (zeros k).1
    omega

/-- Settles O57: the response is no part of the rulers, which are those after the iteration. -/
theorem iterationZeroesOneEntry : Obligations.IterationZeroesOneEntry := by
  intro mode s sel _ hopen hsel hc
  have zeros := entry_iterate_eq_zero_iff mode hsel
  exact ⟨_, exec_engineInstr_selected mode hopen hsel hc, fun k _ => (zeros k).1, fun k _ => (zeros k).2,
    workLeft_iterate mode hsel⟩

/-- An engine command on an open context answers an open context of the same size; where it responds with `DONE = 1`, it
leaves one entry fewer to refine. -/
theorem exec_engineInstr_progress (mode : Mode) {s t : State} (hopen : s.opened = true)
    (h : exec (engineInstr mode) s = .next t) :
    t.opened = true ∧ (if lastDone t = true then 1 else 0) + workLeft t ≤ workLeft s := by
  rcases exec_engineInstr_cases h with ⟨hclosed, _⟩ | ⟨_, _, rfl⟩ | ⟨_, _, _, _, rfl⟩ | ⟨sel, _, hsel, _, rfl⟩
  · rw [hopen] at hclosed; cases hclosed
  · have idle : lastDone (afterResponse 0#64 s) = false := rfl
    refine ⟨hopen, ?_⟩
    rw [idle, if_neg Bool.false_ne_true, Nat.zero_add]
    exact le_refl (workLeft s)
  · have failed : lastDone (afterCapacity s) = false := rfl
    refine ⟨hopen, ?_⟩
    rw [failed, if_neg Bool.false_ne_true, Nat.zero_add]
    exact le_refl (workLeft s)
  · have progress := workLeft_iterate mode hsel
    have responded : workLeft (succeed (selectionData sel) (iterate mode s sel)) = workLeft (iterate mode s sel) := rfl
    refine ⟨(sameShape_iterate mode s sel).opened.trans hopen, ?_⟩
    rw [responded]
    split <;> omega

/-- A run of engine commands answers each of them, and at most as many as there are entries to refine respond with
`DONE = 1`. -/
theorem engineRun_progress (modes : List Mode) {s : State} (hopen : s.opened = true) :
    (engineRun modes s).length = modes.length ∧ (engineRun modes s).countP lastDone ≤ workLeft s := by
  induction modes generalizing s with
  | nil => exact ⟨rfl, Nat.zero_le _⟩
  | cons m ms ih =>
    obtain ⟨t, ht⟩ := exec_answers_next (engineInstr m) s
    obtain ⟨topen, progress⟩ := exec_engineInstr_progress m hopen ht
    obtain ⟨length, count⟩ := ih topen
    have run : engineRun (m :: ms) s = t :: engineRun ms t := by rw [engineRun, ht]
    rw [run, List.countP_cons]
    exact ⟨congrArg (· + 1) length, by omega⟩

/-- Settles O58: an open context has at most `W + H` entries to refine. -/
theorem engineRunsEnd : Obligations.EngineRunsEnd := by
  intro modes s hinv hopen
  obtain ⟨length, count⟩ := engineRun_progress modes hopen
  have shape := (contextShape_iff s).mp hinv.1
  rw [if_pos hopen] at shape
  obtain ⟨_, _, columns, rows, _⟩ := shape
  have hx : nonzeroCount s.xErr ≤ s.w.toNat := columns ▸ List.countP_le_length
  have hy : nonzeroCount s.yErr ≤ s.h.toNat := rows ▸ List.countP_le_length
  exact ⟨length, count.trans (Nat.add_le_add hx hy)⟩

end Sys2Proof.Machine

/-! The samples of an iteration: the bytes `STEPE` writes, the pixels at the cross points, and that decoding those bytes repeats
the iteration (41_engine.md R164, R165, R173, R181). -/

namespace Sys2Proof.Machine

/-! ## The samples of a walk -/

theorem crossColumn_eq (sel : Selection) (k : Nat) : crossColumn sel k = if sel.axis = .col then sel.pivot else k := by
  cases h : sel.axis <;> simp [crossColumn, h]

theorem crossRow_eq (sel : Selection) (k : Nat) : crossRow sel k = if sel.axis = .col then k else sel.pivot := by
  cases h : sel.axis <;> simp [crossRow, h]

/-- The sample of the `n`-th cross line `k` of a walk from `s` (41_engine.md R164, R165). -/
def sampleAt (mode : Mode) (sel : Selection) (s : State) (n k : Nat) : Pixel :=
  match mode with
  | .decode => pktReadSample s (s.pos.toNat + 3 * n)
  | .encode => tgtRead s (crossColumn sel k) (crossRow sel k)

/-- The first cross point takes the first sample. -/
theorem takeSample_fst (mode : Mode) (sel : Selection) (s : State) (k : Nat) :
    (takeSample mode (crossColumn sel k) (crossRow sel k) s).1 = sampleAt mode sel s 0 k := by
  cases mode <;> rfl

theorem pktReadSample_congr {s t : State} (hp : t.pkt = s.pkt) (he : t.epoch = s.epoch) (a : Nat) :
    pktReadSample t a = pktReadSample s a := by
  simp only [pktReadSample, pktRead_congr hp he]

/-- Past the first cross point the walk goes on with the next sample. -/
theorem sampleAt_crossPoint (mode : Mode) (sel : Selection) (rng : Range) {s : State} (k₀ n k : Nat)
    (room : s.pos.toNat + 3 < 2 ^ 32) :
    sampleAt mode sel (crossPoint mode sel rng s k₀) n k = sampleAt mode sel s (n + 1) k := by
  cases mode with
  | decode =>
    simp only [sampleAt, crossPoint_pos_toNat .decode sel rng k₀ room]
    rw [pktReadSample_congr (crossPoint_decode sel rng s k₀).2 (crossPoint_epoch ..)]
    congr 1
    omega
  | encode => exact tgtRead_congr (crossPoint_tgt ..) (crossPoint_epoch ..) _ _

theorem sampleAt_rebalanced (mode : Mode) (sel : Selection) (s : State) (n k : Nat) :
    sampleAt mode sel (rebalanced s sel) n k = sampleAt mode sel s n k := by
  cases mode with
  | decode =>
    simp only [sampleAt, rebalanced_pos]
    exact pktReadSample_congr (rebalanced_pkt s sel) (rebalanced_epoch s sel) _
  | encode => exact tgtRead_congr (rebalanced_tgt s sel) (rebalanced_epoch s sel) _ _

/-! ## The bytes of a sample (20_memory.md R54) -/

/-- The packet holds the three bytes of a sample from `a` on. -/
structure HoldsSample (m : List Host.Cell) (a : Nat) (p : Pixel) : Prop where
  r : cellAt m a = some p.r
  g : cellAt m (a + 1) = some p.g
  b : cellAt m (a + 2) = some p.b

theorem holdsSample_pktWriteSample (s : State) (a : Nat) (p : Pixel) : HoldsSample (pktWriteSample s a p).pkt a p := by
  constructor <;> rw [cellAt_pktWriteSample] <;> simp

theorem HoldsSample.congr {m m' : List Host.Cell} {a : Nat} {p : Pixel} (h : HoldsSample m a p)
    (same : ∀ b, a ≤ b → b < a + 3 → cellAt m' b = cellAt m b) : HoldsSample m' a p :=
  ⟨(same a (by omega) (by omega)).trans h.r, (same (a + 1) (by omega) (by omega)).trans h.g,
    (same (a + 2) (by omega) (by omega)).trans h.b⟩

/-- A sample that the packet holds is the one that decode mode reads. -/
theorem HoldsSample.read {s : State} {a : Nat} {p : Pixel} (h : HoldsSample s.pkt a p) : pktReadSample s a = p := by
  rw [pktReadSample, pktRead_of_cellAt h.r, pktRead_of_cellAt h.g, pktRead_of_cellAt h.b]

/-- After a walk in encode mode the packet holds the `n`-th sample at `POS + 3n`: no later sample is written there. -/
theorem walk_holdsSample (sel : Selection) (rng : Range) (ks : List Nat) {s : State} {n k : Nat}
    (room : s.pos.toNat + 3 * ks.length < 2 ^ 32) (hk : ks[n]? = some k) :
    HoldsSample (ks.foldl (crossPoint .encode sel rng) s).pkt (s.pos.toNat + 3 * n) (sampleAt .encode sel s n k) := by
  induction ks generalizing s n with
  | nil => simp at hk
  | cons k₀ ks ih =>
    rw [List.length_cons] at room
    have hpos := crossPoint_pos_toNat .encode sel rng (s := s) k₀ (by omega)
    rw [List.foldl_cons]
    cases n with
    | zero =>
      cases hk
      have here : HoldsSample (crossPoint .encode sel rng s k).pkt s.pos.toNat (sampleAt .encode sel s 0 k) :=
        (crossPoint_encode sel rng s k).2 ▸ holdsSample_pktWriteSample s s.pos.toNat _
      exact here.congr fun b _ hb => walk_cellAt_outside .encode sel rng ks (by omega) (.inl (by omega))
    | succ n =>
      have later := ih (s := crossPoint .encode sel rng s k₀) (by omega) hk
      rw [hpos, sampleAt_crossPoint .encode sel rng k₀ n k (by omega)] at later
      rwa [show s.pos.toNat + 3 * (n + 1) = s.pos.toNat + 3 + 3 * n by omega]

theorem iterate_holdsSample {s : State} {sel : Selection} {n k : Nat} (hc : overCapacity s sel = false)
    (hk : (crossOf s sel)[n]? = some k) :
    HoldsSample (iterate .encode s sel).pkt (s.pos.toNat + 3 * n) (sampleAt .encode sel s n k) := by
  have h := walk_holdsSample sel (pivotRange s sel) (crossOf s sel) (s := rebalanced s sel) (n := n) (k := k)
  rw [rebalanced_pos, sampleAt_rebalanced] at h
  exact h (room_of_not_overCapacity hc) hk

/-- Settles O54: the response is no part of the packet, which is that after the iteration. -/
theorem stepeWritesItsSamples : Obligations.StepeWritesItsSamples := by
  intro s t sel n k hopen hsel hc h hk
  rw [show Instr.stepe = engineInstr .encode from rfl, exec_engineInstr_selected .encode hopen hsel hc] at h
  cases h
  have held := iterate_holdsSample hc hk
  rw [sampleAt, crossColumn_eq, crossRow_eq] at held
  have target : (if sel.axis = .col then tgtRead s sel.pivot k else tgtRead s k sel.pivot) =
      tgtRead s (if sel.axis = .col then sel.pivot else k) (if sel.axis = .col then k else sel.pivot) := by
    split <;> rfl
  rw [target]
  exact ⟨held.r, held.g, held.b⟩

/-! ## The pixel at a cross point (41_engine.md R173) -/

/-- Where both entries are 0 the sample replaces the pixel. -/
theorem blendAlpha_exact (m : Nat) : blendAlpha 0 0 m = 256 := by
  simp [blendAlpha_eq, errorWeight, f32, fdiv, fadd, fmul]

/-- A splat that covers a pixel whose column and row are exact turns it into the sample. -/
theorem pixelOf_splatCanvas_exact {p : Splat} {cv : Canvas} {i j : Nat} (covers : splatCovers p i j = true)
    (hx : entry p.xErr i = 0) (hy : entry p.yErr j = 0) (hj : j < cv.length) (hi : i < (cv.getD j []).length) :
    pixelOf (splatCanvas p cv) i j = p.sample := by
  rw [pixelOf_splatCanvas hj hi, splatPixel, if_pos covers, hx, hy, blendAlpha_exact]
  simp [blendPixel]

/-- The splat of another cross line does not cover a cross point: its perpendicular range stops before that line. -/
theorem splatOf_not_covers_other {s : State} {sel : Selection} {k k' : Nat} (hk' : k' < perpLength s sel.axis)
    (hk : entry (perpRuler s sel.axis) k = 0) (hne : k ≠ k') (rng : Range) (p : Pixel) :
    splatCovers (splatOf sel rng p s k') (crossColumn sel k) (crossRow sel k) = false := by
  have stops := fun lo hi => entry_ne_zero_of_mem_expand (r := s.radius.toNat) hk' lo hi hne hk
  rw [← Bool.not_eq_true, splatCovers_iff]
  rintro ⟨⟨colLo, colHi⟩, ⟨rowLo, rowHi⟩, _⟩
  simp only [splatOf] at colLo colHi rowLo rowHi
  cases hax : sel.axis with
  | col =>
    simp only [hax, regionRows, crossRow] at stops rowLo rowHi
    exact stops rowLo rowHi
  | row =>
    simp only [hax, regionColumns, crossColumn] at stops colLo colHi
    exact stops colLo colHi

/-- The splat of a cross line covers its own cross point. -/
theorem splatOf_covers_own {s : State} {sel : Selection} {rng : Range} {k : Nat} (hk : k < perpLength s sel.axis)
    (lo : rng.lo ≤ sel.pivot) (hi : sel.pivot ≤ rng.hi) (hr : 1 ≤ s.radius.toNat) (p : Pixel) :
    splatCovers (splatOf sel rng p s k) (crossColumn sel k) (crossRow sel k) = true := by
  obtain ⟨_, perpLo, perpHi, _⟩ := expand_bounds (perpRuler s sel.axis) s.radius.toNat hk
  have center : (((crossColumn sel k : Nat) : Int) - crossColumn sel k) ^ 2 +
      (((crossRow sel k : Nat) : Int) - crossRow sel k) ^ 2 < (s.radius.toNat : Int) ^ 2 := by
    have : (0 : Int) < s.radius.toNat := by omega
    simpa using pow_pos this 2
  refine (splatCovers_iff ..).mpr ⟨?_, ?_, center⟩ <;> simp only [splatOf, crossColumn, crossRow]
  · cases hax : sel.axis with
    | col => exact ⟨lo, hi⟩
    | row => rw [hax] at perpLo perpHi; exact ⟨perpLo, perpHi⟩
  · cases hax : sel.axis with
    | col => rw [hax] at perpLo perpHi; exact ⟨perpLo, perpHi⟩
    | row => exact ⟨lo, hi⟩

/-- A pixel that the splat of the `n`-th cross line turns into its sample, and that no other splat covers, is the `n`-th sample
after the walk. -/
theorem walk_pixel_eq_sample (mode : Mode) (sel : Selection) (rng : Range) (ks : List Nat) {s t : State} {n k i j : Nat}
    (same : SameRulers s t) (shape : rowLengths t.canvas = rowLengths s.canvas)
    (room : t.pos.toNat + 3 * ks.length < 2 ^ 32) (distinct : ks.Nodup) (hk : ks[n]? = some k)
    (away : ∀ k' ∈ ks, k' ≠ k → ∀ p, splatCovers (splatOf sel rng p s k') i j = false)
    (hit : ∀ cv p, rowLengths cv = rowLengths s.canvas → pixelOf (splatCanvas (splatOf sel rng p s k) cv) i j = p) :
    pixel (ks.foldl (crossPoint mode sel rng) t) i j = sampleAt mode sel t n k := by
  induction ks generalizing t n with
  | nil => simp at hk
  | cons k₀ ks ih =>
    obtain ⟨fresh, distinct⟩ := List.nodup_cons.mp distinct
    rw [List.length_cons] at room
    have hpos := crossPoint_pos_toNat mode sel rng (s := t) k₀ (by omega)
    have same' := same.trans (sameRulers_crossPoint mode sel rng t k₀)
    rw [List.foldl_cons]
    cases n with
    | zero =>
      cases hk
      have later := walk_pixel_of_not_covers mode sel rng ks same' fun k' hk' =>
        away k' (List.mem_cons_of_mem k hk') (ne_of_mem_of_not_mem hk' fresh)
      rw [later, pixel, crossPoint_canvas, takeSample_fst, same.splatOf]
      exact hit _ _ shape
    | succ n =>
      rw [ih same' ((rowLengths_crossPoint mode sel rng t k₀).trans shape) (by omega) distinct hk
        fun k' hk' => away k' (List.mem_cons_of_mem k₀ hk')]
      exact sampleAt_crossPoint mode sel rng k₀ n k (by omega)

/-- A pixel inside the canvas of an open context exists in every canvas of the same shape. -/
theorem pixel_exists_of_inv {s : State} (hinv : Inv s) (hopen : s.opened = true) {cv : Canvas}
    (shape : rowLengths cv = rowLengths s.canvas) {i j : Nat} (hi : i < s.w.toNat) (hj : j < s.h.toNat) :
    j < cv.length ∧ i < (cv.getD j []).length := by
  have context := (contextShape_iff s).mp hinv.1
  rw [if_pos hopen] at context
  obtain ⟨_, _, _, _, height, width⟩ := context
  rw [← shape] at height width
  have hj' : j < cv.length := by rw [rowLengths, List.length_map] at height; omega
  refine ⟨hj', ?_⟩
  rw [List.getD_eq_getElem _ _ hj', width _ (List.mem_map_of_mem (List.getElem_mem hj'))]
  exact hi

/-- The pixel at the `n`-th cross point after an iteration is the `n`-th sample. -/
theorem pixel_iterate_crossPoint (mode : Mode) {s : State} {sel : Selection} {n k : Nat} (hinv : Inv s)
    (hopen : s.opened = true) (hsel : selection s = some sel) (hc : overCapacity s sel = false)
    (hk : (crossOf s sel)[n]? = some k) :
    pixel (iterate mode s sel) (crossColumn sel k) (crossRow sel k) = sampleAt mode sel s n k := by
  obtain ⟨inside, _⟩ := selection_pivot hsel
  obtain ⟨_, pivotLo, pivotHi, _⟩ := expand_bounds (pivotRuler s sel.axis) s.radius.toNat inside
  have isCross (k' : Nat) (h : k' ∈ crossOf s sel) : k' < perpLength (rebalanced s sel) sel.axis ∧
      entry (perpRuler (rebalanced s sel) sel.axis) k' = 0 := by
    rw [perpLength_rebalanced, perpRuler_rebalanced]
    exact mem_crossLines.mp h
  obtain ⟨hlt, hzero⟩ := isCross k (List.mem_of_getElem? hk)
  have pivotZero := (entry_rebalanced_eq_zero_iff hsel sel.pivot).mpr (.inr rfl)
  have radius : 1 ≤ (rebalanced s sel).radius.toNat := by
    have := hinv.2.1
    rw [rebalanced_radius]
    bv_omega
  have exact_and_inside : entry (rebalanced s sel).xErr (crossColumn sel k) = 0 ∧
      entry (rebalanced s sel).yErr (crossRow sel k) = 0 ∧ crossColumn sel k < s.w.toNat ∧ crossRow sel k < s.h.toNat := by
    rw [perpLength_rebalanced] at hlt
    unfold crossColumn crossRow
    cases hax : sel.axis with
    | col => rw [hax] at inside hlt hzero pivotZero; exact ⟨pivotZero, hzero, inside, hlt⟩
    | row => rw [hax] at inside hlt hzero pivotZero; exact ⟨hzero, pivotZero, hlt, inside⟩
  obtain ⟨columnZero, rowZero, columnLt, rowLt⟩ := exact_and_inside
  have walk := walk_pixel_eq_sample mode sel (pivotRange s sel) (crossOf s sel) (SameRulers.refl (rebalanced s sel)) rfl
    (by rw [rebalanced_pos]; exact room_of_not_overCapacity hc) (crossLines_pairwise _ _).nodup hk
    (i := crossColumn sel k) (j := crossRow sel k)
    (fun k' hk' hne => splatOf_not_covers_other (isCross k' hk').1 hzero hne.symm _)
    (fun cv p shape => by
      rw [rebalanced_canvas] at shape
      obtain ⟨hj, hi⟩ := pixel_exists_of_inv hinv hopen shape columnLt rowLt
      exact pixelOf_splatCanvas_exact (splatOf_covers_own hlt pivotLo pivotHi radius p) columnZero rowZero hj hi)
  exact walk.trans (sampleAt_rebalanced mode sel s n k)

/-- Settles O55: the response is no part of the canvas, which is that after the iteration. -/
theorem crossPointBecomesTheSample : Obligations.CrossPointBecomesTheSample := by
  intro mode s t sel n k hinv hopen hsel hc h hk
  rw [exec_engineInstr_selected mode hopen hsel hc] at h
  cases h
  simp only [← crossColumn_eq, ← crossRow_eq]
  refine (pixel_iterate_crossPoint mode hinv hopen hsel hc hk).trans ?_
  cases mode <;> rfl

/-! ## Encode and decode agree (41_engine.md R181) -/

theorem SameRulers.selection {s t : State} (h : SameRulers s t) : selection t = selection s := by
  simp only [Machine.selection, h.xErr, h.yErr, h.w, h.h]

theorem SameRulers.pivotRange {s t : State} (h : SameRulers s t) (sel : Selection) : pivotRange t sel = pivotRange s sel := by
  unfold Machine.pivotRange
  cases sel.axis <;> simp only [pivotRuler, pivotLength, h.xErr, h.yErr, h.w, h.h, h.radius]

theorem SameRulers.crossOf {s t : State} (h : SameRulers s t) (sel : Selection) : crossOf t sel = crossOf s sel := by
  rw [Machine.crossOf, h.perpRuler, h.perpLength, Machine.crossOf]

theorem SameRulers.rebalanced {s t : State} (h : SameRulers s t) (sel : Selection) :
    SameRulers (rebalanced s sel) (rebalanced t sel) := by
  unfold Machine.rebalanced
  rw [h.pivotRange, h.radius]
  cases sel.axis with
  | col => exact ⟨by simp only [pivotRuler, setPivotRuler, h.xErr], h.yErr, h.w, h.h, h.radius⟩
  | row => exact ⟨h.xErr, by simp only [pivotRuler, setPivotRuler, h.yErr], h.w, h.h, h.radius⟩

/-- A walk in decode mode over the bytes that a walk in encode mode wrote leaves the same canvas: every sample is the same. -/
theorem walk_decode_eq_encode (sel : Selection) (rng : Range) (ks : List Nat) {s t : State} (same : SameRulers s t)
    (canvas : t.canvas = s.canvas) (pos : t.pos = s.pos) (room : s.pos.toNat + 3 * ks.length < 2 ^ 32)
    (bytes : ∀ a, s.pos.toNat ≤ a → a < s.pos.toNat + 3 * ks.length →
      cellAt t.pkt a = cellAt (ks.foldl (crossPoint .encode sel rng) s).pkt a) :
    (ks.foldl (crossPoint .decode sel rng) t).canvas = (ks.foldl (crossPoint .encode sel rng) s).canvas := by
  induction ks generalizing s t with
  | nil => exact canvas
  | cons k ks ih =>
    have written := walk_holdsSample sel rng (k :: ks) (n := 0) room rfl
    have sample : sampleAt .decode sel t 0 k = sampleAt .encode sel s 0 k := by
      rw [sampleAt, pos]
      rw [List.length_cons] at bytes
      exact (written.congr fun b _ _ => bytes b (by omega) (by omega)).read
    rw [List.length_cons] at room bytes
    have hpos := crossPoint_pos_toNat .encode sel rng (s := s) k (by omega)
    rw [List.foldl_cons] at bytes ⊢
    refine ih (((sameRulers_crossPoint .encode sel rng s k).symm.trans same).trans (sameRulers_crossPoint ..)) ?_ ?_
      (by omega) fun a lo hi => ?_
    · rw [crossPoint_canvas, crossPoint_canvas, takeSample_fst, takeSample_fst, sample, same.splatOf, canvas]
    · rw [crossPoint_frame, crossPoint_frame .encode, pos]
    · rw [(crossPoint_decode sel rng t k).2]
      exact bytes a (by omega) (by omega)

/-- An iteration in decode mode over the bytes that one in encode mode wrote leaves the same canvas. -/
theorem iterate_decode_canvas {s t : State} {sel : Selection} (same : SameRulers s t) (canvas : t.canvas = s.canvas)
    (pos : t.pos = s.pos) (hc : overCapacity s sel = false)
    (bytes : ∀ a, s.pos.toNat ≤ a → a < s.pos.toNat + 3 * (crossOf s sel).length →
      cellAt t.pkt a = cellAt (iterate .encode s sel).pkt a) :
    (iterate .decode t sel).canvas = (iterate .encode s sel).canvas := by
  have walk := walk_decode_eq_encode sel (pivotRange s sel) (crossOf s sel) (same.rebalanced sel)
    (by rw [rebalanced_canvas, rebalanced_canvas, canvas]) (by rw [rebalanced_pos, rebalanced_pos, pos])
  rw [rebalanced_pos, rebalanced_pkt] at walk
  rw [iterate, same.crossOf, same.pivotRange]
  exact walk (room_of_not_overCapacity hc) bytes

/-- Settles O59: the second block answers as the first does, and where the first iterates its bytes give the same samples. -/
theorem encodeAndDecodeAgree : Obligations.EncodeAndDecodeAgree := by
  intro s₁ s₂ t₁ opened canvas xErr yErr radius w h pos size hexec bytes
  have same : SameRulers s₁ s₂ := ⟨xErr, yErr, w, h, radius⟩
  have selected := same.selection
  have capacity (sel : Selection) : overCapacity s₂ sel = overCapacity s₁ sel := by
    rw [overCapacity, same.crossOf, pos, size, overCapacity]
  rcases exec_engineInstr_cases (mode := .encode) hexec with ⟨hopen, rfl⟩ | ⟨hopen, hsel, rfl⟩ | ⟨sel, hopen, hsel, hc, rfl⟩ |
    ⟨sel, hopen, hsel, hc, rfl⟩ <;> rw [← opened] at hopen
  · exact ⟨_, exec_engineInstr_closed .decode hopen, canvas, xErr, yErr, pos, rfl, rfl, rfl⟩
  · rw [← selected] at hsel
    exact ⟨_, exec_engineInstr_unselected .decode hopen hsel, canvas, xErr, yErr, pos, rfl, rfl, rfl⟩
  · rw [← selected] at hsel
    rw [← capacity] at hc
    exact ⟨_, exec_engineInstr_overCapacity .decode hopen hsel hc, canvas, xErr, yErr, pos, rfl, rfl, rfl⟩
  · have answer := exec_engineInstr_selected .decode hopen (selected.trans hsel) ((capacity sel).trans hc)
    have rulers := same.rebalanced sel
    rw [succeed_pos, succeed_pkt, iterate_pos_toNat .encode hc] at bytes
    refine ⟨_, answer, iterate_decode_canvas same canvas pos hc bytes, ?_, ?_, ?_, rfl, iterate_numpix_decode s₂ sel,
      iterate_pkt_decode s₂ sel⟩
    · rw [succeed_xErr, succeed_xErr, iterate_xErr, iterate_xErr, rulers.xErr]
    · rw [succeed_yErr, succeed_yErr, iterate_yErr, iterate_yErr, rulers.yErr]
    · rw [succeed_pos, succeed_pos, iterate_pos, iterate_pos, same.crossOf, pos]

end Sys2Proof.Machine

/-! Errors and waiting (60_exceptions.md): what an error response changes, which commands end with `E_NOT_OPEN`, when an
iteration ends with `E_CAPACITY`, and the block that has no command to perform. -/

namespace Sys2Proof.Machine

/-! ## Waiting for a command (60_exceptions.md R216) -/

/-- Settles O12, by induction on the number of steps: each of them is idle. -/
theorem blockWaitsForACommand : Obligations.BlockWaitsForACommand := by
  intro k s hs
  induction k with
  | zero => rfl
  | succ k ih =>
    have hstep : core.step s = .next s := step_nil hs
    simp only [Host.Core.run, hstep]
    exact ih

/-! ## The code of a response -/

/-- The response of a success has `CODE` 0. -/
theorem responseCode_of_succeed {i : Instr} {d : BitVec 56} {s : State} {r : RspWord}
    (h : (succeed d (effectOf i s)).rsps = r :: s.rsps) : responseCode r = successCode := by
  rw [succeed_rsps, effectOf_rsps] at h
  rw [← (List.cons.inj h).1, responseCode_responseWord]

/-! ## An error changes `STATUS` alone (60_exceptions.md R201) -/

/-- An error as its number says it: one bit of `STATUS`, and a response that is the number in its top byte. -/
theorem raiseError_eq_number (e : ErrorCode) (s : State) :
    raiseError e s = { s with
      status := s.status ||| (1#5 <<< (e.number - 1))
      rsps := BitVec.ofNat 64 (e.number * 2 ^ 56) :: s.rsps } := by
  cases e <;> rfl

/-- Settles O31: a success has `CODE` 0, so the command raised an error. -/
theorem errorChangesStatusOnly : Obligations.ErrorChangesStatusOnly := by
  intro i s t r h hr hcode
  rcases exec_next_cases h with ⟨_, d, rfl⟩ | ⟨_, e, rfl⟩
  · exact absurd (responseCode_of_succeed hr) hcode
  · obtain ⟨lower, upper⟩ := errorCode_range e
    exact ⟨e.number, lower, upper, raiseError_eq_number e s⟩

/-! ## The commands that need an open context (60_exceptions.md R205) -/

/-- `E_NOT_OPEN` is raised by the open-context check alone. -/
theorem argumentError_ne_notOpen (i : Instr) : argumentError i ≠ .notOpen := by
  cases i with
  | openCtx a b =>
    rw [argumentError, openError]
    split <;> exact ErrorCode.noConfusion
  | _ => exact ErrorCode.noConfusion

theorem errorCode_ne_notOpen {e : ErrorCode} (h : e ≠ .notOpen) : e.code ≠ 2#8 := by
  cases e with
  | notOpen => exact absurd rfl h
  | _ => decide

/-- A command that needs no open context answers another code than `E_NOT_OPEN`, whether it succeeds or fails. -/
theorem exec_without_context {i : Instr} (hi : i.op.needsOpen = false) (s : State) :
    ∃ t r, exec i s = .next t ∧ t.rsps = r :: s.rsps ∧ responseCode r ≠ 2#8 := by
  cases hc : checksPass i s with
  | true =>
    refine ⟨_, responseWord successCode (dataOf i s), exec_of_checksPass hc, ?_, ?_⟩
    · rw [succeed_rsps, effectOf_rsps]
    · rw [responseCode_responseWord]; decide
  | false =>
    have herr : errorOf i s = argumentError i := errorOf_of_context (by rw [hi]; rfl)
    refine ⟨_, responseWord (errorOf i s).code 0#56, exec_of_checksFail hc, raiseError_rsps _ s, ?_⟩
    rw [responseCode_responseWord, herr]
    exact errorCode_ne_notOpen (argumentError_ne_notOpen i)

/-- Settles O30: the first list is the commands that need an open context, the second those that need none. -/
theorem notOpenCommands : Obligations.NotOpenCommands := by
  intro i s hs
  refine ⟨fun hi => exec_of_closed ?_ hs, fun hi => exec_without_context ?_ s⟩
  · rcases hi with hi | ⟨k, v, rfl | rfl⟩ | ⟨k, rfl | rfl⟩ | ⟨x, y, rfl⟩
    · fin_cases hi <;> rfl
    all_goals rfl
  · rcases hi with hi | ⟨a, b, rfl⟩ | ⟨r, rfl⟩ | ⟨v, rfl | rfl⟩ | ⟨n, rfl⟩
    · fin_cases hi <;> rfl
    all_goals rfl

/-! ## The capacity check (60_exceptions.md R208) -/

/-- The number `N` of cross lines, counted over the perpendicular ruler (41_engine.md R159). -/
theorem crossOf_length (s : State) (sel : Selection) :
    (crossOf s sel).length =
      (List.range (if sel.axis = .col then s.h.toNat else s.w.toNat)).countP
        fun k => entry (if sel.axis = .col then s.yErr else s.xErr) k == 0 := by
  rw [crossOf, crossLines, ← List.countP_eq_length_filter]
  cases sel.axis <;> rfl

theorem overCapacity_iff (s : State) (sel : Selection) :
    overCapacity s sel = true ↔
      0 < (crossOf s sel).length ∧ s.size.toNat < s.pos.toNat + 3 * (crossOf s sel).length := by
  simp [overCapacity]

theorem extractLsb'_selectionData (sel : Selection) : (selectionData sel).extractLsb' 0 1 = 1#1 := by
  rw [selectionData, extractLsb'_or, extractLsb'_or, extractLsb'_or, extractLsb'_placeField_below _ (by omega),
    extractLsb'_placeField_below _ (by omega), extractLsb'_placeField_below _ (by omega),
    extractLsb'_placeField_same _ (by omega)]
  rfl

/-- A success that reports a selection has `DONE = 1`. -/
theorem lastDone_selectionData (sel : Selection) (s : State) : lastDone (succeed (selectionData sel) s) = true := by
  have code : (responseWord successCode (selectionData sel)).extractLsb' 56 8 = 0#8 := responseCode_responseWord _ _
  have doneBit : (responseWord successCode (selectionData sel)).extractLsb' 0 1 = 1#1 := by
    rw [responseWord_success, BitVec.extractLsb'_setWidth_of_le (by omega)]
    exact extractLsb'_selectionData sel
  rw [lastDone, succeed_rsps]
  simp only [code, doneBit, beq_self_eq_true, Bool.and_self]

/-- Settles O40: the check's two outcomes, with `N` counted over the perpendicular ruler. -/
theorem capacityCheckDecides : Obligations.CapacityCheckDecides := by
  intro mode s sel hopen hsel
  dsimp only
  rw [← crossOf_length]
  refine ⟨fun crossed noRoom => ?_, fun room => ?_⟩
  · exact exec_engineInstr_overCapacity mode hopen hsel ((overCapacity_iff s sel).mpr ⟨crossed, noRoom⟩)
  · have hc : overCapacity s sel = false := by
      rw [← Bool.not_eq_true, overCapacity_iff]
      omega
    refine ⟨_, exec_engineInstr_selected mode hopen hsel hc, ?_, lastDone_selectionData sel _⟩
    rw [succeed_status, iterate_state_frame]

end Sys2Proof.Machine

/-! Reset and completion (70_reset_and_hazards.md): that every command ends, what reset leaves, and the command sequence that
reaches the reset state from any other. -/

namespace Sys2Proof.Machine

/-! ## Every command ends (70_reset_and_hazards.md R232, R239) -/

/-- A step that answers a next state leaves the rest of the run to that state. -/
theorem core_run_succ {s t : State} (k : Nat) (h : step s = .next t) :
    Host.Core.run core (k + 1) s = Host.Core.run core k t := by
  have hstep : core.step s = .next t := h
  simp only [Host.Core.run, hstep]

/-- Every step answers a next state: with no word the block waits, and every word is answered. -/
theorem step_answers_next (s : State) : ∃ t, step s = .next t := by
  cases hc : s.cmds with
  | nil => exact ⟨s, step_nil hc⟩
  | cons w rest =>
    obtain ⟨t, hstep, _⟩ := step_answers_once hc
    exact ⟨t, hstep⟩

/-- Settles O10, by induction on the number of steps. -/
theorem everyRunIsSafe : Obligations.EveryRunIsSafe := by
  intro k
  induction k with
  | zero => exact fun s => ⟨s, rfl⟩
  | succ k ih =>
    intro s
    obtain ⟨t, hstep⟩ := step_answers_next s
    rw [SafeRun, core_run_succ k hstep]
    exact ih t

/-! ## A sequence of commands that all succeed without data -/

/-- The state after commands that each have their effect and answer 0; while one is performed, the words of the later ones
are on the command channel. -/
def afterEffects : List Instr → State → State
  | [], s => s
  | i :: is, s => afterEffects is (afterResponse 0#64 (effectOf i { s with cmds := is.map encode }))

/-- The command passes its checks and has no data in every state. -/
def AnswersZero (i : Instr) : Prop := ∀ s, checksPass i s = true ∧ dataOf i s = 0#56

/-- Stepping through the words of commands that always answer 0 applies their effects in order. -/
theorem run_of_answersZero {is : List Instr} (his : ∀ i ∈ is, AnswersZero i) {s : State} (hc : s.cmds = is.map encode) :
    Host.Core.run core is.length s = .next (afterEffects is s) := by
  induction is generalizing s with
  | nil => rfl
  | cons i is ih =>
    obtain ⟨hi, hrest⟩ := List.forall_mem_cons.mp his
    obtain ⟨hchecks, hdata⟩ := hi { s with cmds := is.map encode }
    have hstep : step s = .next (afterResponse 0#64 (effectOf i { s with cmds := is.map encode })) :=
      (step_of_decode hc (decodeOfEncode i)).trans (exec_of_effect hchecks hdata)
    obtain ⟨_, _, _, hcmds⟩ := effectOf_hardwired i { s with cmds := is.map encode }
    rw [List.length_cons, core_run_succ _ hstep]
    exact ih hrest hcmds

/-! ## The way back to reset (70_reset_and_hazards.md R230) -/

/-- The commands that undo, between them, every register and the context store. -/
def closeSequence : List Instr := [.closeCtx, .clrst, .setrad 5#8, .setpos 0#32, .setsize 0#32, .clrnp]

/-- None of the sequence has a check that can fail: the one operand that is checked is the radius 5. -/
theorem answersZero_of_mem_closeSequence : ∀ i ∈ closeSequence, AnswersZero i := by
  simp only [closeSequence, List.forall_mem_cons]
  exact ⟨fun _ => ⟨rfl, rfl⟩, fun _ => ⟨rfl, rfl⟩, fun _ => ⟨rfl, rfl⟩, fun _ => ⟨rfl, rfl⟩, fun _ => ⟨rfl, rfl⟩,
    fun _ => ⟨rfl, rfl⟩, List.forall_mem_nil _⟩

/-- The effects of the sequence set every field of the block to its reset value and leave the hardwired sizes, the host's
spaces, the model's `epoch` and the earlier responses. -/
theorem afterEffects_closeSequence (s : State) :
    afterEffects closeSequence s = { State.reset with
      maxW := s.maxW, maxH := s.maxH, pkt := s.pkt, tgt := s.tgt, epoch := s.epoch
      rsps := List.replicate 6 0#64 ++ s.rsps } := rfl

/-- Settles O16: the run applies the six effects in order. -/
theorem closeSequenceReachesReset : Obligations.CloseSequenceReachesReset :=
  fun s hc => ⟨_, run_of_answersZero answersZero_of_mem_closeSequence hc, afterEffects_closeSequence s⟩

/-! ## The state after reset (70_reset_and_hazards.md R230) -/

/-- Settles O13, field by field. -/
theorem resetLeavesTheTableValues : Obligations.ResetLeavesTheTableValues :=
  ⟨rfl, rfl, rfl, rfl, rfl, rfl, rfl, rfl, rfl, rfl, rfl⟩

/-- Reset leaves nothing for `CLOSE` to drop. -/
theorem dropContext_reset : dropContext State.reset = State.reset := rfl

/-- Settles O14: reset has the shape that `CLOSE` leaves, and its host spaces list nothing. -/
theorem resetMeetsTheInvariant : Obligations.ResetMeetsTheInvariant := by
  have shape : contextShape State.reset = true := dropContext_reset ▸ contextShape_dropContext State.reset
  exact ⟨shape, by decide, by decide, by decide, rfl, rfl⟩

end Sys2Proof.Machine
